-- ==== Sys2Proof/Word.lean ====
section
/-! DEFINITION. The two widths of this hardware: the 16-bit Word, which is register, memory cell, address and
instruction at once (10_state.md R20), and the 8-bit byte, which exists only at the terminal port
(60_exceptions.md R201). -/

namespace Sys2Proof

/-- 10_state.md R20: every register, every memory cell, every address and every instruction is a Word. Its `+` is
addition modulo 65536, its `&&&` the bitwise AND and its `~~~` the bitwise complement of 00_scope.md R9. -/
abbrev Word := BitVec 16

/-- 00_scope.md R8: a byte is an 8-bit unsigned integer. -/
abbrev Byte := BitVec 8

end Sys2Proof
end

