-- ==== Sys2Proof/Syntax.lean ====
section
/-! DEFINITION. The instructions as syntax: one constructor for each of the 25 rows of spec/opcode_table.json
(30_encoding.md R82), with the fields of its format (30_encoding.md R84). Bits the format marks as ignored are no field
(30_encoding.md R85). -/

namespace Sys2Proof

/-- The eight general registers (10_state.md R21). -/
inductive Reg where
  | r0 | r1 | r2 | r3 | r4 | r5 | r6 | r7
deriving DecidableEq, Repr

/-- The instruction set. Immediates and offsets are kept as the raw field; they are sign-extended where they are used
(30_encoding.md R87). -/
inductive Instr where
  /-- BR, format F-BR: `cond = ir[11:9]` holds the bits n, z, p (42_control.md R140). -/
  | br (cond : BitVec 3) (pcoffset9 : BitVec 9)
  /-- ADD, register form, format F-OPR (40_operate.md R110). -/
  | addReg (dr sr1 sr2 : Reg)
  /-- ADD, immediate form, format F-OPI (40_operate.md R111). -/
  | addImm (dr sr1 : Reg) (imm5 : BitVec 5)
  /-- LD, format F-PC9 (41_load_store.md R120). -/
  | ld (dr : Reg) (pcoffset9 : BitVec 9)
  /-- ST, format F-PC9 (41_load_store.md R124). -/
  | st (sr : Reg) (pcoffset9 : BitVec 9)
  /-- JSR, format F-JSR (42_control.md R142). -/
  | jsr (pcoffset11 : BitVec 11)
  /-- JSRR, format F-JSRR (42_control.md R143). -/
  | jsrr (baseR : Reg)
  /-- AND, register form, format F-OPR (40_operate.md R112). -/
  | andReg (dr sr1 sr2 : Reg)
  /-- AND, immediate form, format F-OPI (40_operate.md R113). -/
  | andImm (dr sr1 : Reg) (imm5 : BitVec 5)
  /-- LDR, format F-BASE6 (41_load_store.md R122). -/
  | ldr (dr baseR : Reg) (offset6 : BitVec 6)
  /-- STR, format F-BASE6 (41_load_store.md R126). -/
  | str (sr baseR : Reg) (offset6 : BitVec 6)
  /-- RTI, opcode 8, format F-NONE (42_control.md R144). -/
  | rti
  /-- NOT, format F-NOT (40_operate.md R114). -/
  | notReg (dr sr : Reg)
  /-- LDI, format F-PC9 (41_load_store.md R121). -/
  | ldi (dr : Reg) (pcoffset9 : BitVec 9)
  /-- STI, format F-PC9 (41_load_store.md R125). -/
  | sti (sr : Reg) (pcoffset9 : BitVec 9)
  /-- JMP, format F-JMP (42_control.md R141). -/
  | jmp (baseR : Reg)
  /-- RES, opcode 13, format F-NONE (42_control.md R145). -/
  | res
  /-- LEA, format F-PC9 (41_load_store.md R123). -/
  | lea (dr : Reg) (pcoffset9 : BitVec 9)
  /-- TRAP 0x20 (43_trap.md R161). -/
  | trapGetc
  /-- TRAP 0x21 (43_trap.md R162). -/
  | trapOut
  /-- TRAP 0x22 (43_trap.md R163). -/
  | trapPuts
  /-- TRAP 0x23 (43_trap.md R164). -/
  | trapIn
  /-- TRAP 0x24 (43_trap.md R165). -/
  | trapPutsp
  /-- TRAP 0x25 (43_trap.md R166). -/
  | trapHalt
  /-- TRAP with an unserved vector, the fallback row (43_trap.md R167). -/
  | trap (trapvect8 : BitVec 8)
deriving DecidableEq, Repr

end Sys2Proof
end

