-- ==== Sys2Proof/WellFormed.lean ====
section
/-! DEFINITION. Which terms of `Instr` are instructions. Every field's width is in its type, so one check is left: the
fallback TRAP row applies only to vectors the dispatcher does not serve (43_trap.md R167). -/

namespace Sys2Proof

/-- 43_trap.md R160: the six vectors the dispatcher serves are 0x20 to 0x25. -/
def servedVector (v : BitVec 8) : Bool :=
  decide (0x20#8 ≤ v) && decide (v ≤ 0x25#8)

/-- The well-formed instructions: all, except the fallback TRAP with a served vector. -/
def wellFormed (i : Instr) : Bool :=
  match i with
  | .br _ _ => true
  | .addReg _ _ _ => true
  | .addImm _ _ _ => true
  | .ld _ _ => true
  | .st _ _ => true
  | .jsr _ => true
  | .jsrr _ => true
  | .andReg _ _ _ => true
  | .andImm _ _ _ => true
  | .ldr _ _ _ => true
  | .str _ _ _ => true
  | .rti => true
  | .notReg _ _ => true
  | .ldi _ _ => true
  | .sti _ _ => true
  | .jmp _ => true
  | .res => true
  | .lea _ _ => true
  | .trapGetc => true
  | .trapOut => true
  | .trapPuts => true
  | .trapIn => true
  | .trapPutsp => true
  | .trapHalt => true
  | .trap v => !servedVector v

end Sys2Proof
end

