-- ==== Sys2Proof/Decode.lean ====
section
/-! DEFINITION. The decoder, the encoder and the opcode table (30_encoding.md R80 to R89). Every instruction is one
Word, and the opcode map is total: each of the 65536 words selects exactly one row, so the decoder refuses nothing.
What it cannot be given is a word of another length; `decodeTableWord` answers none there. -/

namespace Sys2Proof

/-- The register a 3-bit field names (10_state.md R21, 30_encoding.md R88). -/
def Reg.ofBits (b : BitVec 3) : Reg :=
  match b.getLsbD 2, b.getLsbD 1, b.getLsbD 0 with
  | false, false, false => .r0
  | false, false, true => .r1
  | false, true, false => .r2
  | false, true, true => .r3
  | true, false, false => .r4
  | true, false, true => .r5
  | true, true, false => .r6
  | true, true, true => .r7

/-- The 3-bit field that names a register. -/
def Reg.toBits (r : Reg) : BitVec 3 :=
  match r with
  | .r0 => 0
  | .r1 => 1
  | .r2 => 2
  | .r3 => 3
  | .r4 => 4
  | .r5 => 5
  | .r6 => 6
  | .r7 => 7

/-- `ir[11:9]` as a register: `dr` of the loads and operate instructions, `sr` of the stores (30_encoding.md R84). -/
def regAt9 (ir : Word) : Reg := Reg.ofBits (ir.extractLsb' 9 3)

/-- `ir[8:6]` as a register: `sr1`, `sr` of NOT, `baseR` (30_encoding.md R84). -/
def regAt6 (ir : Word) : Reg := Reg.ofBits (ir.extractLsb' 6 3)

/-- `ir[2:0]` as a register: `sr2` (30_encoding.md R84). -/
def regAt0 (ir : Word) : Reg := Reg.ofBits (ir.extractLsb' 0 3)

/-- Opcode 15: the vector `ir[7:0]` selects a routine of the dispatcher, any other value the fallback
(43_trap.md R160). -/
def decodeTrap (vec : BitVec 8) : Instr :=
  if vec = 0x20#8 then .trapGetc
  else if vec = 0x21#8 then .trapOut
  else if vec = 0x22#8 then .trapPuts
  else if vec = 0x23#8 then .trapIn
  else if vec = 0x24#8 then .trapPutsp
  else if vec = 0x25#8 then .trapHalt
  else .trap vec

/-- The opcode map (30_encoding.md R82): dispatch on `ir[15:12]`, then on `ir[5]` for ADD and AND and on `ir[11]` for
opcode 4 before any field is extracted (30_encoding.md R83). -/
def decode (ir : Word) : Instr :=
  match ir.getLsbD 15, ir.getLsbD 14, ir.getLsbD 13, ir.getLsbD 12 with
  | false, false, false, false => .br (ir.extractLsb' 9 3) (ir.extractLsb' 0 9)
  | false, false, false, true =>
    match ir.getLsbD 5 with
    | false => .addReg (regAt9 ir) (regAt6 ir) (regAt0 ir)
    | true => .addImm (regAt9 ir) (regAt6 ir) (ir.extractLsb' 0 5)
  | false, false, true, false => .ld (regAt9 ir) (ir.extractLsb' 0 9)
  | false, false, true, true => .st (regAt9 ir) (ir.extractLsb' 0 9)
  | false, true, false, false =>
    match ir.getLsbD 11 with
    | true => .jsr (ir.extractLsb' 0 11)
    | false => .jsrr (regAt6 ir)
  | false, true, false, true =>
    match ir.getLsbD 5 with
    | false => .andReg (regAt9 ir) (regAt6 ir) (regAt0 ir)
    | true => .andImm (regAt9 ir) (regAt6 ir) (ir.extractLsb' 0 5)
  | false, true, true, false => .ldr (regAt9 ir) (regAt6 ir) (ir.extractLsb' 0 6)
  | false, true, true, true => .str (regAt9 ir) (regAt6 ir) (ir.extractLsb' 0 6)
  | true, false, false, false => .rti
  | true, false, false, true => .notReg (regAt9 ir) (regAt6 ir)
  | true, false, true, false => .ldi (regAt9 ir) (ir.extractLsb' 0 9)
  | true, false, true, true => .sti (regAt9 ir) (ir.extractLsb' 0 9)
  | true, true, false, false => .jmp (regAt6 ir)
  | true, true, false, true => .res
  | true, true, true, false => .lea (regAt9 ir) (ir.extractLsb' 0 9)
  | true, true, true, true => decodeTrap (ir.extractLsb' 0 8)

/-- The word of an instruction, field by field from bit 15 down (30_encoding.md R84). Ignored bits are filled as the
spec fills them: 0, and 111111 for NOT (30_encoding.md R85). -/
def encode (i : Instr) : Word :=
  match i with
  | .br cond off => 0b0000#4 ++ cond ++ off
  | .addReg dr sr1 sr2 => 0b0001#4 ++ dr.toBits ++ sr1.toBits ++ 0b0#1 ++ 0b00#2 ++ sr2.toBits
  | .addImm dr sr1 imm => 0b0001#4 ++ dr.toBits ++ sr1.toBits ++ 0b1#1 ++ imm
  | .ld dr off => 0b0010#4 ++ dr.toBits ++ off
  | .st sr off => 0b0011#4 ++ sr.toBits ++ off
  | .jsr off => 0b0100#4 ++ 0b1#1 ++ off
  | .jsrr base => 0b0100#4 ++ 0b0#1 ++ 0b00#2 ++ base.toBits ++ 0b000000#6
  | .andReg dr sr1 sr2 => 0b0101#4 ++ dr.toBits ++ sr1.toBits ++ 0b0#1 ++ 0b00#2 ++ sr2.toBits
  | .andImm dr sr1 imm => 0b0101#4 ++ dr.toBits ++ sr1.toBits ++ 0b1#1 ++ imm
  | .ldr dr base off => 0b0110#4 ++ dr.toBits ++ base.toBits ++ off
  | .str sr base off => 0b0111#4 ++ sr.toBits ++ base.toBits ++ off
  | .rti => 0b1000#4 ++ 0b000000000000#12
  | .notReg dr sr => 0b1001#4 ++ dr.toBits ++ sr.toBits ++ 0b111111#6
  | .ldi dr off => 0b1010#4 ++ dr.toBits ++ off
  | .sti sr off => 0b1011#4 ++ sr.toBits ++ off
  | .jmp base => 0b1100#4 ++ 0b000#3 ++ base.toBits ++ 0b000000#6
  | .res => 0b1101#4 ++ 0b000000000000#12
  | .lea dr off => 0b1110#4 ++ dr.toBits ++ off
  | .trapGetc => 0b1111#4 ++ 0b0000#4 ++ 0x20#8
  | .trapOut => 0b1111#4 ++ 0b0000#4 ++ 0x21#8
  | .trapPuts => 0b1111#4 ++ 0b0000#4 ++ 0x22#8
  | .trapIn => 0b1111#4 ++ 0b0000#4 ++ 0x23#8
  | .trapPutsp => 0b1111#4 ++ 0b0000#4 ++ 0x24#8
  | .trapHalt => 0b1111#4 ++ 0b0000#4 ++ 0x25#8
  | .trap vec => 0b1111#4 ++ 0b0000#4 ++ vec

/-- A row of spec/opcode_table.json: a word `w` matches it when `w &&& mask = value`. -/
structure Row where
  mnemonic : String
  mask : Word
  value : Word
deriving DecidableEq, Repr

def Row.matchesWord (r : Row) (w : Word) : Bool := decide (w &&& r.mask = r.value)

def opcodeRowsPlain : List Row :=
  [⟨"BR", 0xF000#16, 0x0000#16⟩, ⟨"ADD", 0xF020#16, 0x1000#16⟩, ⟨"ADD", 0xF020#16, 0x1020#16⟩, ⟨"LD", 0xF000#16, 0x2000#16⟩,
   ⟨"ST", 0xF000#16, 0x3000#16⟩, ⟨"JSR", 0xF800#16, 0x4800#16⟩, ⟨"JSRR", 0xF800#16, 0x4000#16⟩, ⟨"AND", 0xF020#16, 0x5000#16⟩,
   ⟨"AND", 0xF020#16, 0x5020#16⟩, ⟨"LDR", 0xF000#16, 0x6000#16⟩, ⟨"STR", 0xF000#16, 0x7000#16⟩, ⟨"RTI", 0xF000#16, 0x8000#16⟩,
   ⟨"NOT", 0xF000#16, 0x9000#16⟩, ⟨"LDI", 0xF000#16, 0xA000#16⟩, ⟨"STI", 0xF000#16, 0xB000#16⟩, ⟨"JMP", 0xF000#16, 0xC000#16⟩,
   ⟨"RES", 0xF000#16, 0xD000#16⟩, ⟨"LEA", 0xF000#16, 0xE000#16⟩]

def opcodeRowsTrap : List Row :=
  [⟨"TRAP_GETC", 0xF0FF#16, 0xF020#16⟩, ⟨"TRAP_OUT", 0xF0FF#16, 0xF021#16⟩, ⟨"TRAP_PUTS", 0xF0FF#16, 0xF022#16⟩,
   ⟨"TRAP_IN", 0xF0FF#16, 0xF023#16⟩, ⟨"TRAP_PUTSP", 0xF0FF#16, 0xF024#16⟩, ⟨"TRAP_HALT", 0xF0FF#16, 0xF025#16⟩]

/-- The fallback row of opcode 15, which a served vector's row (the larger mask) overrules. -/
def opcodeRowFallback : Row := ⟨"TRAP", 0xF000#16, 0xF000#16⟩

/-- spec/opcode_table.json, its 25 rows in its order. -/
def opcodeTable : List Row := opcodeRowsPlain ++ opcodeRowsTrap ++ [opcodeRowFallback]

/-- The row each constructor stands for. -/
def Instr.row (i : Instr) : Row :=
  match i with
  | .br _ _ => ⟨"BR", 0xF000#16, 0x0000#16⟩
  | .addReg _ _ _ => ⟨"ADD", 0xF020#16, 0x1000#16⟩
  | .addImm _ _ _ => ⟨"ADD", 0xF020#16, 0x1020#16⟩
  | .ld _ _ => ⟨"LD", 0xF000#16, 0x2000#16⟩
  | .st _ _ => ⟨"ST", 0xF000#16, 0x3000#16⟩
  | .jsr _ => ⟨"JSR", 0xF800#16, 0x4800#16⟩
  | .jsrr _ => ⟨"JSRR", 0xF800#16, 0x4000#16⟩
  | .andReg _ _ _ => ⟨"AND", 0xF020#16, 0x5000#16⟩
  | .andImm _ _ _ => ⟨"AND", 0xF020#16, 0x5020#16⟩
  | .ldr _ _ _ => ⟨"LDR", 0xF000#16, 0x6000#16⟩
  | .str _ _ _ => ⟨"STR", 0xF000#16, 0x7000#16⟩
  | .rti => ⟨"RTI", 0xF000#16, 0x8000#16⟩
  | .notReg _ _ => ⟨"NOT", 0xF000#16, 0x9000#16⟩
  | .ldi _ _ => ⟨"LDI", 0xF000#16, 0xA000#16⟩
  | .sti _ _ => ⟨"STI", 0xF000#16, 0xB000#16⟩
  | .jmp _ => ⟨"JMP", 0xF000#16, 0xC000#16⟩
  | .res => ⟨"RES", 0xF000#16, 0xD000#16⟩
  | .lea _ _ => ⟨"LEA", 0xF000#16, 0xE000#16⟩
  | .trapGetc => ⟨"TRAP_GETC", 0xF0FF#16, 0xF020#16⟩
  | .trapOut => ⟨"TRAP_OUT", 0xF0FF#16, 0xF021#16⟩
  | .trapPuts => ⟨"TRAP_PUTS", 0xF0FF#16, 0xF022#16⟩
  | .trapIn => ⟨"TRAP_IN", 0xF0FF#16, 0xF023#16⟩
  | .trapPutsp => ⟨"TRAP_PUTSP", 0xF0FF#16, 0xF024#16⟩
  | .trapHalt => ⟨"TRAP_HALT", 0xF0FF#16, 0xF025#16⟩
  | .trap _ => opcodeRowFallback

/-- 30_encoding.md R85: the bits of a word that the rules of its row do not read. -/
def ignoredBits (i : Instr) : Word :=
  match i with
  | .br _ _ => 0x0000#16
  | .addReg _ _ _ => 0x0018#16
  | .addImm _ _ _ => 0x0000#16
  | .ld _ _ => 0x0000#16
  | .st _ _ => 0x0000#16
  | .jsr _ => 0x0000#16
  | .jsrr _ => 0x063F#16
  | .andReg _ _ _ => 0x0018#16
  | .andImm _ _ _ => 0x0000#16
  | .ldr _ _ _ => 0x0000#16
  | .str _ _ _ => 0x0000#16
  | .rti => 0x0FFF#16
  | .notReg _ _ => 0x003F#16
  | .ldi _ _ => 0x0000#16
  | .sti _ _ => 0x0000#16
  | .jmp _ => 0x0E3F#16
  | .res => 0x0FFF#16
  | .lea _ _ => 0x0000#16
  | .trapGetc => 0x0F00#16
  | .trapOut => 0x0F00#16
  | .trapPuts => 0x0F00#16
  | .trapIn => 0x0F00#16
  | .trapPutsp => 0x0F00#16
  | .trapHalt => 0x0F00#16
  | .trap _ => 0x0F00#16

/-- The instruction the decoder reads from a word of `nbits` bits with the value `w` (bits above `nbits` are 0). Every
instruction is 16 bits long (30_encoding.md R80), so a longer word is none of this hardware's. -/
def decodeTableWord (nbits w : Nat) : Option Instr :=
  if nbits ≤ 16 ∧ w < 2 ^ nbits then some (decode (BitVec.ofNat 16 w)) else none

end Sys2Proof
end

