-- ==== Sys2Proof/Config.lean ====
section
/-! DEFINITION. The parameters the spec leaves OPEN (00_scope.md R7; 92_eei_decisions.md, open parameters). `IMAGE`,
`ENTRY` and the keyboard arrivals are arguments of `State.resetWith`; the two texts and the unconstrained arrivals stand
here as constants without a body, so that nothing can be proved of their bytes. -/

namespace Sys2Proof

/-- `HALT_NOTICE`: the finite list of bytes the HALT routine writes (43_trap.md R166). OPEN in the spec (D9), so a free
value: log entry 3. -/
opaque Config.haltNotice : List Byte

/-- `IN_PROMPT`: the finite list of bytes the IN routine writes before it reads (43_trap.md R164). OPEN in the spec
(D10), so a free value: log entry 3. -/
opaque Config.inPrompt : List Byte

/-- The bytes that an unconstrained environment brings: for each stream and each step of it, those that arrive before that
step. The times and values of arrivals are not constrained (60_exceptions.md R202; 93_implementation_defined.md U9), so
free values: any sequence, unending ones among them. Log entry 6. -/
opaque Config.freeArrivals (stream tick : Nat) : List Byte

/-- The value of `ENTRY` that `State.reset` uses. `ENTRY` is OPEN in the spec (00_scope.md R7, D11): DESIGN CHOICE, log
entry 2, the entry of the start state of 95_test_vectors.md section 0. `State.resetWith` takes any other. -/
def Config.entry : Word := 0x3000#16

end Sys2Proof
end

