-- ==== Sys2Proof/Machine/CondCodes.lean ====
section
/-! DEFINITION. The three values the condition-flags slot `COND` can take (10_state.md R25). -/

namespace Sys2Proof.Machine

/-- `FL_POS`, bit 0. The numeric value is the spec's decision D1, from general knowledge: PRESUMED, log entry 4. -/
def flPos : Word := 0x0001#16

/-- `FL_ZRO`, bit 1. PRESUMED, log entry 4. -/
def flZro : Word := 0x0002#16

/-- `FL_NEG`, bit 2. PRESUMED, log entry 4. -/
def flNeg : Word := 0x0004#16

end Sys2Proof.Machine
end

