-- ==== Sys2Proof/Machine/State.lean ====
section
/-! DEFINITION. The state of the machine as plain data (10_state.md), its reset (10_state.md R37,
70_reset_and_hazards.md R220) and the reasons a step could stop. -/

namespace Sys2Proof.Machine

/-- The array `M` of 65536 Words (10_state.md R29) as the list of its cells that are not 0x0000, by rising address; the
canonical form is `Memory.wf`. The cell is a whole Word, because the hardware has no byte of memory (20_memory.md R51):
DESIGN CHOICE, log entry 1. -/
abbrev Memory := List (Nat × Word)

/-- The general registers `R0` to `R7` (10_state.md R21). -/
structure RegFile where
  r0 : Word
  r1 : Word
  r2 : Word
  r3 : Word
  r4 : Word
  r5 : Word
  r6 : Word
  r7 : Word
deriving DecidableEq, Repr

/-- `RUN`, the run state (10_state.md R32). -/
inductive RunState where
  | running
  | halted
  | faulted
deriving DecidableEq, Repr

/-- `FAULT.kind` with the word's part it records: `FAULT.op` for a DecodeFault, `FAULT.vec` for a TrapFault
(10_state.md R33). -/
inductive FaultKind where
  | decodeFault (op : BitVec 4)
  | trapFault (vec : BitVec 8)
deriving DecidableEq, Repr

/-- `FAULT`, the fault record (10_state.md R33). -/
structure FaultRecord where
  kind : FaultKind
  pc : Word
deriving DecidableEq, Repr

/-- An instruction whose step is not over: GETC or IN waiting in `ReadChar()` (60_exceptions.md R204, the split the rule
calls exact), or a PUTS or PUTSP walk over memory without a zero word (70_reset_and_hazards.md R222). The model's own
field: log entries 7 and 8. -/
inductive Held where
  | getc
  | inChar
  | puts
  | putsp
deriving DecidableEq, Repr

/-- What the environment brings once the listed arrivals are used up: nothing, or the free values of a stream
(`Config.freeArrivals`) from a step of it on, without end (60_exceptions.md R202). Log entry 6. -/
inductive Source where
  | silent
  | free (stream tick : Nat)
deriving DecidableEq, Repr

/-- The environment's future steps (60_exceptions.md R202): for each coming step of the core the bytes that arrive before
it, first those listed, then those of the source. Log entry 6. -/
structure Arrivals where
  listed : List (List Byte)
  source : Source
deriving DecidableEq, Repr

/-- Everything the spec gives the machine (10_state.md R36: "Two data structures", the run state, the fault record), the
two things of the terminal (10_state.md R35), and two fields of the model's own, `held` and `arrivals`. -/
structure State where
  /-- `R0` to `R7`. -/
  regs : RegFile
  /-- `PC` (10_state.md R23). -/
  pc : Word
  /-- `COND` (10_state.md R25). -/
  cond : Word
  /-- `M`; `KBSR` and `KBDR` are its cells 0xFE00 and 0xFE02 (10_state.md R29 to R31). -/
  mem : Memory
  /-- `RUN` (10_state.md R32). -/
  run : RunState
  /-- `FAULT`; none is the spec's own "no fault recorded" (10_state.md R33, R37). -/
  fault : Option FaultRecord
  /-- `kbd`, the keyboard queue, head first (60_exceptions.md R202). -/
  kbd : List Byte
  /-- `out`, the output trace, in call order (60_exceptions.md R203). -/
  out : List Byte
  /-- The model's own: an instruction held in its step (log entries 7 and 8). -/
  held : Option Held
  /-- The model's own: the bytes the environment will bring, by the step before which they arrive (60_exceptions.md R202;
  log entry 6). -/
  arrivals : Arrivals
deriving DecidableEq, Repr

/-- Reasons a step could stop with a fault. NONE: the spec's two faults end a run in the STATE `RUN = FAULTED` with the
fault record written (60_exceptions.md R193), which is a next state, and nothing else stops the machine
(60_exceptions.md R190). -/
inductive Fault where
deriving DecidableEq, Repr

/-- Reasons a step is refused. -/
inductive Refusal where
  /-- Raised by an arm of `exec` whose instruction has no meaning yet; safe. No arm raises it. -/
  | notModelled (mnemonic : String)
deriving DecidableEq, Repr

/-- `reset(IMAGE, ENTRY)` of 70_reset_and_hazards.md R220, with the keyboard and the arrivals the environment brings
(10_state.md R37, D13). -/
def State.resetWith (image : Memory) (entry : Word) (kbd : List Byte) (arrivals : Arrivals) : State where
  regs := ⟨0x0000#16, 0x0000#16, 0x0000#16, 0x0000#16, 0x0000#16, 0x0000#16, 0x0000#16, 0x0000#16⟩
  pc := entry
  cond := flZro
  mem := image
  run := .running
  fault := none
  kbd := kbd
  out := []
  held := none
  arrivals := arrivals

/-- The machine right after reset with no image loaded, no key pending and none to come. `ENTRY` and the keyboard are
open in the spec: DESIGN CHOICE, log entries 2 and 6. -/
def State.reset : State := State.resetWith [] Config.entry [] ⟨[], .silent⟩

end Sys2Proof.Machine
end

