-- ==== Sys2Proof/Machine/Memory.lean ====
section
/-! DEFINITION. The array `M`: reading and writing one cell, and the canonical form of the list that holds it. -/

namespace Sys2Proof.Machine

/-- What a cell reads as where nothing was loaded or stored: memory is zero-initialized (10_state.md R37). -/
def Memory.unlisted : Word := 0x0000#16

/-- `M[a]` (10_state.md R29). -/
def Memory.read (m : Memory) (a : Word) : Word :=
  match m with
  | [] => Memory.unlisted
  | (k, v) :: rest => if k = a.toNat then v else Memory.read rest a

/-- Put a cell at its place in the rising order. -/
def Memory.insertCell (m : Memory) (k : Nat) (v : Word) : Memory :=
  match m with
  | [] => [(k, v)]
  | (k', v') :: rest =>
    if k < k' then (k, v) :: (k', v') :: rest else (k', v') :: Memory.insertCell rest k v

/-- The list without the cell at an address. -/
def Memory.erase (m : Memory) (k : Nat) : Memory := m.filter (fun c => c.1 != k)

/-- `M[a] <- v` (20_memory.md R56). Storing what an unlisted cell reads as removes the entry. -/
def Memory.write (m : Memory) (a v : Word) : Memory :=
  if v = Memory.unlisted then Memory.erase m a.toNat
  else Memory.insertCell (Memory.erase m a.toNat) a.toNat v

/-- The canonical form: addresses below 65536 and strictly rising, no cell listed at the value it would read as
unlisted. -/
def Memory.wf (m : Memory) : Bool :=
  match m with
  | [] => true
  | (k, v) :: rest =>
    decide (k < 65536) && decide (v ≠ Memory.unlisted) && rest.all (fun c => decide (k < c.1)) && Memory.wf rest

end Sys2Proof.Machine
end

