-- ==== Sys2Proof/Machine/Operands.lean ====
section
/-! DEFINITION. Operand forms: sign and zero extension (30_encoding.md R86, 00_scope.md R10) and the ways an operand
value or an address is formed (30_encoding.md R87, 41_load_store.md R127). The indirect form reads memory and is in
Ops.lean. -/

namespace Sys2Proof.Machine

/-- `(0xFFFF << N) & 0xFFFF`, the OR mask of 30_encoding.md R86. -/
def sextMask (n : Nat) : Word := 0xFFFF#16 <<< n

/-- `sext_N(v)` by the algorithm of 30_encoding.md R86: OR in the mask when bit N-1 is 1, else the field unchanged. -/
def sext {n : Nat} (v : BitVec n) : Word :=
  if v.msb then v.setWidth 16 ||| sextMask n else v.setWidth 16

/-- `zext_8(v)`: bits 15 to 8 are zero (00_scope.md R10; 60_exceptions.md R201). -/
def zext8 (b : Byte) : Word := b.setWidth 16

/-- `zext_3(v)`: bits 15 to 3 are zero (00_scope.md R10). -/
def zext3 (b : BitVec 3) : Word := b.setWidth 16

/-- `w[7:0]`. -/
def lowByte (w : Word) : Byte := w.extractLsb' 0 8

/-- `w[15:8]`. -/
def highByte (w : Word) : Byte := w.extractLsb' 8 8

/-- PC-relative, 9 bits: `PC + sext_9(pcoffset9)` with the incremented PC. -/
def pcRel9 (s : State) (off : BitVec 9) : Word := s.pc + sext off

/-- PC-relative, 11 bits: `PC + sext_11(pcoffset11)` with the incremented PC. -/
def pcRel11 (s : State) (off : BitVec 11) : Word := s.pc + sext off

/-- Base plus offset: `R[baseR] + sext_6(offset6)`, given the base register's value. -/
def baseOffset6 (base : Word) (off : BitVec 6) : Word := base + sext off

/-- Immediate: `sext_5(imm5)`. -/
def immediate5 (imm : BitVec 5) : Word := sext imm

end Sys2Proof.Machine
end

