-- ==== Sys2Proof/Machine/Ops.lean ====
section
/-! DEFINITION. The named operations of the spec's pseudocode (00_scope.md R10): registers, the terminal port, the three
memory primitives, the fetch, the raising of a fault, and the entry of a TRAP. All but the environment's `arrive` work
on the state in which the step has already fetched and incremented `PC`. -/

namespace Sys2Proof.Machine

/-- `R[i]` (10_state.md R21). -/
def RegFile.get (f : RegFile) (r : Reg) : Word :=
  match r with
  | .r0 => f.r0
  | .r1 => f.r1
  | .r2 => f.r2
  | .r3 => f.r3
  | .r4 => f.r4
  | .r5 => f.r5
  | .r6 => f.r6
  | .r7 => f.r7

/-- `R[i] <- v`: the whole Word; no register is hardwired (10_state.md R21). -/
def RegFile.set (f : RegFile) (r : Reg) (v : Word) : RegFile :=
  match r with
  | .r0 => { f with r0 := v }
  | .r1 => { f with r1 := v }
  | .r2 => { f with r2 := v }
  | .r3 => { f with r3 := v }
  | .r4 => { f with r4 := v }
  | .r5 => { f with r5 := v }
  | .r6 => { f with r6 := v }
  | .r7 => { f with r7 := v }

/-- `R[i]`. -/
def State.reg (s : State) (r : Reg) : Word := s.regs.get r

/-- `R[i] <- v`. -/
def State.setReg (s : State) (r : Reg) (v : Word) : State := { s with regs := s.regs.set r v }

/-- `PC <- v` (10_state.md R23). -/
def State.setPc (s : State) (v : Word) : State := { s with pc := v }

/-- `COND <- v` (10_state.md R25). -/
def State.setCond (s : State) (v : Word) : State := { s with cond := v }

def State.setMem (s : State) (m : Memory) : State := { s with mem := m }

/-- `RUN <- r` (10_state.md R32). -/
def State.setRun (s : State) (r : RunState) : State := { s with run := r }

def State.setFault (s : State) (f : Option FaultRecord) : State := { s with fault := f }

def State.setKbd (s : State) (k : List Byte) : State := { s with kbd := k }

def State.setOut (s : State) (o : List Byte) : State := { s with out := o }

def State.setHeld (s : State) (h : Option Held) : State := { s with held := h }

/-! ## The terminal port and its environment -/

/-- The bytes that arrive before the next step of the core: any list, none among them (60_exceptions.md R202). -/
def Arrivals.next (a : Arrivals) : List Byte :=
  match a.listed, a.source with
  | bs :: _, _ => bs
  | [], .silent => []
  | [], .free stream tick => Config.freeArrivals stream tick

/-- The arrivals that are still to come after those. -/
def Arrivals.later (a : Arrivals) : Arrivals :=
  match a.listed, a.source with
  | _ :: rest, src => ⟨rest, src⟩
  | [], .silent => ⟨[], .silent⟩
  | [], .free stream tick => ⟨[], .free stream (tick + 1)⟩

/-- The environment's step before a step of the core: the bytes that have arrived join the queue
(60_exceptions.md R202). -/
def State.arrive (s : State) : State :=
  { s with kbd := s.kbd ++ s.arrivals.next, arrivals := s.arrivals.later }

/-- `KeyAvail()`: is the queue not empty; consumes nothing (60_exceptions.md R202). -/
def State.keyAvail (s : State) : Bool := !s.kbd.isEmpty

/-- `ReadChar()`: the head of the queue and the state without it, or none while the queue is empty and the call blocks
(60_exceptions.md R202, R204). -/
def State.readChar (s : State) : Option (Byte × State) :=
  match s.kbd with
  | [] => none
  | b :: rest => some (b, s.setKbd rest)

/-- `WriteChar(b)` for each byte of a list, in order: each is appended to the trace; it never blocks and never fails
(60_exceptions.md R203). -/
def State.writeChars (s : State) (bs : List Byte) : State := s.setOut (s.out ++ bs)

/-- `WriteChar(b)`. -/
def State.writeChar (s : State) (b : Byte) : State := s.writeChars [b]

/-! ## The three memory primitives -/

/-- The address of `KBSR` (10_state.md R30). -/
def kbsr : Word := 0xFE00#16

/-- The address of `KBDR` (10_state.md R31). -/
def kbdr : Word := 0xFE02#16

/-- `KBSR_READY`: the whole word written when a key is available (20_memory.md R55, D3). -/
def kbsrReady : Word := 0x8000#16

/-- `MemPlain(a)`: the plain array read (20_memory.md R57). -/
def State.memPlain (s : State) (a : Word) : Word := s.mem.read a

/-- `MemWrite(a, 16, v)`: a plain write at every address (20_memory.md R56). -/
def State.memWrite (s : State) (a v : Word) : State := s.setMem (s.mem.write a v)

/-- What a read of `KBSR` does before it returns the cell: with a key available, `KBSR` becomes ready and the key moves
to `KBDR`; with none, `KBSR` is cleared (20_memory.md R55). -/
def State.poll (s : State) : State :=
  match s.readChar with
  | some (b, s') => (s'.memWrite kbsr kbsrReady).memWrite kbdr (zext8 b)
  | none => s.memWrite kbsr 0x0000#16

/-- `MemRead(a, 16)`: the read with the keyboard interception, at 0xFE00 only (20_memory.md R55; conflict C1). -/
def State.memRead (s : State) (a : Word) : Word × State :=
  if a = kbsr then (s.poll.memPlain a, s.poll) else (s.memPlain a, s)

/-- The indirect form of LDI and STI: the pointer cell is read with `MemRead` (41_load_store.md R121, R125, R127). -/
def State.indirect9 (s : State) (off : BitVec 9) : Word × State := s.memRead (pcRel9 s off)

/-! ## The fetch -/

/-- `ir <- MemRead(PC, 16); PC <- PC + 1` (30_encoding.md R81). -/
def State.fetch (s : State) : Word × State :=
  ((s.memRead s.pc).1, (s.memRead s.pc).2.setPc (s.pc + 1))

/-! ## Faults and TRAP entry -/

/-- `raise K(info)`, the one fault entry of this hardware (60_exceptions.md R193): the record is written, with the
address the faulting word was fetched from, and the run state becomes FAULTED; nothing else changes. There is no return
from it (60_exceptions.md R198): RTI raises a DecodeFault itself (42_control.md R144). -/
def State.raise (s : State) (k : FaultKind) : State :=
  (s.setFault (some { kind := k, pc := s.pc - 1 })).setRun .faulted

/-- The link of JSR, JSRR and TRAP: `R[7] <- PC`, the incremented PC, without a flag update (42_control.md R142, R143;
43_trap.md R160). For TRAP it is all the entry there is (60_exceptions.md R197). -/
def State.link (s : State) : State := s.setReg .r7 s.pc

end Sys2Proof.Machine
end

