-- ==== Sys2Proof/Machine/Flags.lean ====
section
/-! DEFINITION. The condition flags: the one computation of the hardware (10_state.md R26) and the test BR makes
(42_control.md R140). -/

namespace Sys2Proof.Machine

/-- The class of a Word: ZRO if it is 0, NEG if bit 15 is 1, POS otherwise (10_state.md R26). -/
def condOf (v : Word) : Word :=
  if v = 0x0000#16 then flZro else if v.getLsbD 15 then flNeg else flPos

/-- `update_flags(i)`: reads the register as it is now (10_state.md R26). -/
def State.updateFlags (s : State) (r : Reg) : State := s.setCond (condOf (s.reg r))

/-- A load or operate result: `R[dr] <- v; update_flags(dr)` (10_state.md R28). -/
def State.define (s : State) (dr : Reg) (v : Word) : State := (s.setReg dr v).updateFlags dr

/-- `(COND & zext_3(cond)) != 0` (42_control.md R140). -/
def State.condMet (s : State) (cond : BitVec 3) : Bool := decide (s.cond &&& zext3 cond ≠ 0x0000#16)

end Sys2Proof.Machine
end

