-- ==== Sys2Proof/Machine/Control.lean ====
section
/-! DEFINITION. The meanings of BR, JMP, JSR and JSRR, and of the two opcodes that fault, RTI and RES
(42_control.md). -/

namespace Sys2Proof.Machine

/-- 42_control.md R140. -/
def execBr (cond : BitVec 3) (pcoffset9 : BitVec 9) (s : State) : Host.Outcome State Fault Refusal :=
  .next (if s.condMet cond then s.setPc (pcRel9 s pcoffset9) else s)

/-- 42_control.md R141. -/
def execJmp (baseR : Reg) (s : State) : Host.Outcome State Fault Refusal :=
  .next (s.setPc (s.reg baseR))

/-- 42_control.md R142. -/
def execJsr (pcoffset11 : BitVec 11) (s : State) : Host.Outcome State Fault Refusal :=
  .next (s.link.setPc (pcRel11 s.link pcoffset11))

/-- 42_control.md R143: the base register is read after the link is written, so `JSRR R7` goes on at the next
instruction (D23). -/
def execJsrr (baseR : Reg) (s : State) : Host.Outcome State Fault Refusal :=
  .next (s.link.setPc (s.link.reg baseR))

/-- 42_control.md R144. -/
def execRti (s : State) : Host.Outcome State Fault Refusal :=
  .next (s.raise (.decodeFault 8#4))

/-- 42_control.md R145. -/
def execRes (s : State) : Host.Outcome State Fault Refusal :=
  .next (s.raise (.decodeFault 13#4))

end Sys2Proof.Machine
end

