-- ==== Sys2Proof/Machine/LoadStore.lean ====
section
/-! DEFINITION. The meanings of LD, LDI, LDR, LEA, ST, STI and STR (41_load_store.md). -/

namespace Sys2Proof.Machine

/-- The last two statements of every load: `R[dr] <- MemRead(ea, 16); update_flags(dr)`. -/
def State.loadFrom (s : State) (dr : Reg) (ea : Word) : State := (s.memRead ea).2.define dr (s.memRead ea).1

/-- 41_load_store.md R120. -/
def execLd (dr : Reg) (pcoffset9 : BitVec 9) (s : State) : Host.Outcome State Fault Refusal :=
  .next (s.loadFrom dr (pcRel9 s pcoffset9))

/-- 41_load_store.md R121: first access the pointer, second access the data. -/
def execLdi (dr : Reg) (pcoffset9 : BitVec 9) (s : State) : Host.Outcome State Fault Refusal :=
  .next ((s.indirect9 pcoffset9).2.loadFrom dr (s.indirect9 pcoffset9).1)

/-- 41_load_store.md R122. -/
def execLdr (dr baseR : Reg) (offset6 : BitVec 6) (s : State) : Host.Outcome State Fault Refusal :=
  .next (s.loadFrom dr (baseOffset6 (s.reg baseR) offset6))

/-- 41_load_store.md R123: no memory access. -/
def execLea (dr : Reg) (pcoffset9 : BitVec 9) (s : State) : Host.Outcome State Fault Refusal :=
  .next (s.define dr (pcRel9 s pcoffset9))

/-- 41_load_store.md R124. -/
def execSt (sr : Reg) (pcoffset9 : BitVec 9) (s : State) : Host.Outcome State Fault Refusal :=
  .next (s.memWrite (pcRel9 s pcoffset9) (s.reg sr))

/-- 41_load_store.md R125: first access the pointer, a read; second access the write; `R[sr]` is read after the
pointer. -/
def execSti (sr : Reg) (pcoffset9 : BitVec 9) (s : State) : Host.Outcome State Fault Refusal :=
  .next ((s.indirect9 pcoffset9).2.memWrite (s.indirect9 pcoffset9).1 ((s.indirect9 pcoffset9).2.reg sr))

/-- 41_load_store.md R126. -/
def execStr (sr baseR : Reg) (offset6 : BitVec 6) (s : State) : Host.Outcome State Fault Refusal :=
  .next (s.memWrite (baseOffset6 (s.reg baseR) offset6) (s.reg sr))

end Sys2Proof.Machine
end

