-- ==== Sys2Proof/Machine/Operate.lean ====
section
/-! DEFINITION. The meanings of ADD, AND and NOT (40_operate.md). -/

namespace Sys2Proof.Machine

/-- 40_operate.md R110. -/
def execAddReg (dr sr1 sr2 : Reg) (s : State) : Host.Outcome State Fault Refusal :=
  .next (s.define dr (s.reg sr1 + s.reg sr2))

/-- 40_operate.md R111. -/
def execAddImm (dr sr1 : Reg) (imm5 : BitVec 5) (s : State) : Host.Outcome State Fault Refusal :=
  .next (s.define dr (s.reg sr1 + immediate5 imm5))

/-- 40_operate.md R112. -/
def execAndReg (dr sr1 sr2 : Reg) (s : State) : Host.Outcome State Fault Refusal :=
  .next (s.define dr (s.reg sr1 &&& s.reg sr2))

/-- 40_operate.md R113. -/
def execAndImm (dr sr1 : Reg) (imm5 : BitVec 5) (s : State) : Host.Outcome State Fault Refusal :=
  .next (s.define dr (s.reg sr1 &&& immediate5 imm5))

/-- 40_operate.md R114. -/
def execNot (dr sr : Reg) (s : State) : Host.Outcome State Fault Refusal :=
  .next (s.define dr (~~~ s.reg sr))

end Sys2Proof.Machine
end

