-- ==== Sys2Proof/Machine/Trap.lean ====
section
/-! DEFINITION. The TRAP instruction and the routines of its dispatcher (43_trap.md). Each meaning is the entry
`R[7] <- PC` and then the routine. A routine that cannot end in this step leaves its name in `held`, and the next step
takes it up again where it stood (60_exceptions.md R204). -/

namespace Sys2Proof.Machine

/-- GETC from its `ReadChar()` on (43_trap.md R161): with a byte in the queue the routine ends, with none it is held. -/
def State.getcRead (s : State) : State :=
  match s.readChar with
  | some (c, s') => (s'.define .r0 (zext8 c)).setHeld none
  | none => s.setHeld (some .getc)

/-- IN from its `ReadChar()` on (43_trap.md R164): the byte read is echoed, and nothing else. -/
def State.inRead (s : State) : State :=
  match s.readChar with
  | some (c, s') => ((s'.writeChar c).define .r0 (zext8 c)).setHeld none
  | none => s.setHeld (some .inChar)

/-- The words a string walk meets from `a` on, in increasing address order with wrap, up to the first zero word or to
`fuel` words; and whether it met the zero word (43_trap.md R163, R165). The reads are `MemPlain` (20_memory.md R57). -/
def State.walk (s : State) (fuel : Nat) (a : Word) : List Word × Bool :=
  match fuel with
  | 0 => ([], false)
  | n + 1 =>
    if s.memPlain a = 0x0000#16 then ([], true)
    else
      match s.walk n (a + 1) with
      | (ws, ended) => (s.memPlain a :: ws, ended)

/-- The number of cells, and so of words in a walk once round memory. -/
def memoryWords : Nat := 65536

/-- PUTS writes the low byte of each word (43_trap.md R163, D8). -/
def putsBytes (ws : List Word) : List Byte := ws.map lowByte

/-- PUTSP writes the low byte of each word and then its high byte if that is not zero (43_trap.md R165, D25). -/
def putspBytes (ws : List Word) : List Byte :=
  ws.flatMap (fun w => if highByte w = 0x00#8 then [lowByte w] else [lowByte w, highByte w])

/-- The walk of PUTS. If no cell of memory is zero, the walk comes back to where it began and never ends: what it writes
on one round is written, and the instruction is held. -/
def State.putsWalk (s : State) : State :=
  (s.writeChars (putsBytes (s.walk memoryWords (s.reg .r0)).1)).setHeld
    (if (s.walk memoryWords (s.reg .r0)).2 then none else some .puts)

/-- The walk of PUTSP, as for PUTS. -/
def State.putspWalk (s : State) : State :=
  (s.writeChars (putspBytes (s.walk memoryWords (s.reg .r0)).1)).setHeld
    (if (s.walk memoryWords (s.reg .r0)).2 then none else some .putsp)

/-- 43_trap.md R160, R161. -/
def execTrapGetc (s : State) : Host.Outcome State Fault Refusal := .next s.link.getcRead

/-- 43_trap.md R160, R162. -/
def execTrapOut (s : State) : Host.Outcome State Fault Refusal :=
  .next (s.link.writeChar (lowByte (s.link.reg .r0)))

/-- 43_trap.md R160, R163. -/
def execTrapPuts (s : State) : Host.Outcome State Fault Refusal := .next s.link.putsWalk

/-- 43_trap.md R160, R164: the whole prompt, then the read. -/
def execTrapIn (s : State) : Host.Outcome State Fault Refusal :=
  .next (s.link.writeChars Config.inPrompt).inRead

/-- 43_trap.md R160, R165. -/
def execTrapPutsp (s : State) : Host.Outcome State Fault Refusal := .next s.link.putspWalk

/-- 43_trap.md R160, R166. -/
def execTrapHalt (s : State) : Host.Outcome State Fault Refusal :=
  .next ((s.link.writeChars Config.haltNotice).setRun .halted)

/-- 43_trap.md R160, R167: `R7` is written before the fault is raised (D6). -/
def execTrap (trapvect8 : BitVec 8) (s : State) : Host.Outcome State Fault Refusal :=
  .next (s.link.raise (.trapFault trapvect8))

/-- The next step of a held instruction: it goes on where it stood, with no fetch and no second entry. -/
def resume (h : Held) (s : State) : Host.Outcome State Fault Refusal :=
  match h with
  | .getc => .next s.getcRead
  | .inChar => .next s.inRead
  | .puts => .next s.putsWalk
  | .putsp => .next s.putspWalk

end Sys2Proof.Machine
end

