-- ==== Sys2Proof/Machine/Dispatch.lean ====
section
/-! DEFINITION. One arm for each constructor of `Instr`, each a call of its meaning. -/

namespace Sys2Proof.Machine

def exec (i : Instr) (s : State) : Host.Outcome State Fault Refusal :=
  match i with
  | .br cond pcoffset9 => Sys2Proof.Machine.execBr cond pcoffset9 s
  | .addReg dr sr1 sr2 => Sys2Proof.Machine.execAddReg dr sr1 sr2 s
  | .addImm dr sr1 imm5 => Sys2Proof.Machine.execAddImm dr sr1 imm5 s
  | .ld dr pcoffset9 => Sys2Proof.Machine.execLd dr pcoffset9 s
  | .st sr pcoffset9 => Sys2Proof.Machine.execSt sr pcoffset9 s
  | .jsr pcoffset11 => Sys2Proof.Machine.execJsr pcoffset11 s
  | .jsrr baseR => Sys2Proof.Machine.execJsrr baseR s
  | .andReg dr sr1 sr2 => Sys2Proof.Machine.execAndReg dr sr1 sr2 s
  | .andImm dr sr1 imm5 => Sys2Proof.Machine.execAndImm dr sr1 imm5 s
  | .ldr dr baseR offset6 => Sys2Proof.Machine.execLdr dr baseR offset6 s
  | .str sr baseR offset6 => Sys2Proof.Machine.execStr sr baseR offset6 s
  | .rti => Sys2Proof.Machine.execRti s
  | .notReg dr sr => Sys2Proof.Machine.execNot dr sr s
  | .ldi dr pcoffset9 => Sys2Proof.Machine.execLdi dr pcoffset9 s
  | .sti sr pcoffset9 => Sys2Proof.Machine.execSti sr pcoffset9 s
  | .jmp baseR => Sys2Proof.Machine.execJmp baseR s
  | .res => Sys2Proof.Machine.execRes s
  | .lea dr pcoffset9 => Sys2Proof.Machine.execLea dr pcoffset9 s
  | .trapGetc => Sys2Proof.Machine.execTrapGetc s
  | .trapOut => Sys2Proof.Machine.execTrapOut s
  | .trapPuts => Sys2Proof.Machine.execTrapPuts s
  | .trapIn => Sys2Proof.Machine.execTrapIn s
  | .trapPutsp => Sys2Proof.Machine.execTrapPutsp s
  | .trapHalt => Sys2Proof.Machine.execTrapHalt s
  | .trap trapvect8 => Sys2Proof.Machine.execTrap trapvect8 s

end Sys2Proof.Machine
end

