-- ==== Sys2Proof/Machine/Step.lean ====
section
/-! DEFINITION. One step of the machine (30_encoding.md R81): the environment's arrivals, then the fetch, the increment of
`PC`, the decoding and the execution of one instruction. -/

namespace Sys2Proof.Machine

/-- One step. A held instruction goes on instead of a fetch (60_exceptions.md R204). In HALTED and FAULTED no instruction
is executed and the state stays as it is (10_state.md R32; log entry 5). -/
def step (s : State) : Host.Outcome State Fault Refusal :=
  match s.run with
  | .running =>
    match s.held with
    | some h => resume h s.arrive
    | none => exec (decode s.arrive.fetch.1) s.arrive.fetch.2
  | .halted => .next s
  | .faulted => .next s

/-- `s` with the instruction word `w` stored where `step` fetches next, RUNNING and with no instruction held, so that the
next step runs it. It stands for the loader (log entry 2). The one address where a stored word is not what is fetched is
0xFE00, where the fetch polls the keyboard (20_memory.md R58). -/
def State.withFetchWord (s : State) (nbits w : Nat) : State :=
  { s with
    mem := s.mem.write s.pc (BitVec.ofNat 16 (w % 2 ^ nbits))
    run := .running
    fault := none
    held := none }

end Sys2Proof.Machine
end

