-- ==== Sys2Proof/Machine/Ports.lean ====
section
/-! DEFINITION. The loader port and the status port (60_exceptions.md R206, R207). The loader is outside the block; its
image format is modelled from 20_memory.md R67, so that the `IMAGE` and `ENTRY` of a binary file are those the spec
records. No step calls anything of this file. -/

namespace Sys2Proof.Machine

/-- The big-endian words of a byte list (20_memory.md R67); a last odd byte is no word (DEDUCED, log entry 11). -/
def bigEndianWords (bs : List Byte) : List Word :=
  match bs with
  | hi :: lo :: rest => (hi ++ lo) :: bigEndianWords rest
  | [_] => []
  | [] => []

/-- Words into memory from an address on, contiguously, with no wrap past 0xFFFF: what exceeds the capacity is not
loaded (20_memory.md R67). -/
def Memory.load (m : Memory) (origin : Nat) (ws : List Word) : Memory :=
  match ws with
  | [] => m
  | w :: rest =>
    if origin < 65536 then Memory.load (m.write (BitVec.ofNat 16 origin) w) (origin + 1) rest else m

/-- One image file into memory: the first two bytes are the load origin, the rest its words. The answer is the memory
and the origin; a file too short to hold an origin fails to load (`ImageError`, 60_exceptions.md R190, R206). Several
files are loaded one after the other into the same memory. -/
def Memory.loadImage (m : Memory) (file : List Byte) : Option (Memory × Word) :=
  match file with
  | hi :: lo :: rest => some (m.load (hi ++ lo : Word).toNat (bigEndianWords rest), hi ++ lo)
  | [_] => none
  | [] => none

/-- The state in which a loaded image starts: `ENTRY` is the origin of the one image (20_memory.md R67, C5). -/
def State.boot (file : List Byte) (kbd : List Byte) (arrivals : Arrivals) : Option State :=
  match Memory.loadImage [] file with
  | some (image, origin) => some (State.resetWith image origin kbd arrivals)
  | none => none

/-- The status port: `RUN`, and the fault record when FAULTED (60_exceptions.md R207). -/
def State.status (s : State) : RunState × Option FaultRecord :=
  (s.run, match s.run with
    | .faulted => s.fault
    | .running => none
    | .halted => none)

end Sys2Proof.Machine
end

