-- ==== Sys2Proof/Safety.lean ====
section
/-! DEFINITION. What counts as a safe run, and the words the statements about the machine use: the invariant, the parts of
a state an instruction leaves alone, and, read off the spec's tables, which instruction may write what. -/

namespace Sys2Proof.Machine

/-- `COND` holds one of its three values (10_state.md R25, R27). -/
def CondLegal (c : Word) : Prop := c = flPos ∨ c = flZro ∨ c = flNeg

/-- A fault record's kind names a cause that exists: opcode 8 or 13, or an unserved vector (60_exceptions.md R191,
R192). -/
def FaultKind.legal (k : FaultKind) : Bool :=
  match k with
  | .decodeFault op => decide (op = 8#4) || decide (op = 13#4)
  | .trapFault vec => !servedVector vec

/-- The fault record is there exactly in FAULTED; it then names a legal cause and the address before `PC`
(10_state.md R33; 60_exceptions.md R193). -/
def State.faultConsistent (s : State) : Bool :=
  match s.run, s.fault with
  | .faulted, some f => f.kind.legal && decide (f.pc = s.pc - 1)
  | .faulted, none => false
  | .running, f => f.isNone
  | .halted, f => f.isNone

/-- After HALT, after a TrapFault and while a routine is held, `R7` still holds the incremented PC that the TRAP entry
wrote and `PC` holds the same (43_trap.md R160; 70_reset_and_hazards.md R222). -/
def State.linkConsistent (s : State) : Bool :=
  match s.run, s.fault, s.held with
  | .halted, _, _ => decide (s.reg .r7 = s.pc)
  | .faulted, some ⟨.trapFault _, _⟩, _ => decide (s.reg .r7 = s.pc)
  | .faulted, _, _ => true
  | .running, _, some _ => decide (s.reg .r7 = s.pc)
  | .running, _, none => true

/-- An instruction is held only in RUNNING, and GETC and IN only for want of a byte (60_exceptions.md R204). -/
def State.heldConsistent (s : State) : Bool :=
  match s.held with
  | none => true
  | some .getc => decide (s.run = .running) && s.kbd.isEmpty
  | some .inChar => decide (s.run = .running) && s.kbd.isEmpty
  | some .puts => decide (s.run = .running)
  | some .putsp => decide (s.run = .running)

/-- The invariant of the machine between two steps. -/
structure State.Inv (s : State) : Prop where
  cond : CondLegal s.cond
  mem : s.mem.wf = true
  fault : s.faultConsistent = true
  link : s.linkConsistent = true
  held : s.heldConsistent = true

/-- A run is good as long as it has not faulted: a FAULTED state is never an acceptable final state
(93_implementation_defined.md U5). -/
def State.good (s : State) : Prop := s.run ≠ .faulted

/-! ## The arrivals over several steps -/

/-- The bytes that arrive before the next `n` steps, in their order (60_exceptions.md R202). -/
def Arrivals.bytes (a : Arrivals) (n : Nat) : List Byte :=
  match n with
  | 0 => []
  | k + 1 => a.next ++ a.later.bytes k

/-- The arrivals that are still to come after the next `n` steps. -/
def Arrivals.skip (a : Arrivals) (n : Nat) : Arrivals :=
  match n with
  | 0 => a
  | k + 1 => a.later.skip k

/-! ## Parts of the state that stay as they are -/

def SameRegs (s t : State) : Prop := ∀ r : Reg, t.reg r = s.reg r

def SameRegsExcept (d : Reg) (s t : State) : Prop := ∀ r : Reg, r ≠ d → t.reg r = s.reg r

/-- Every cell of memory reads as before. -/
def SameMemory (s t : State) : Prop := ∀ a : Word, t.mem.read a = s.mem.read a

def SameMemoryExcept (a : Word) (s t : State) : Prop := ∀ b : Word, b ≠ a → t.mem.read b = s.mem.read b

/-- The keyboard queue, the output and the environment's coming bytes. -/
def SameTerminal (s t : State) : Prop := t.kbd = s.kbd ∧ t.out = s.out ∧ t.arrivals = s.arrivals

/-- The run state, the fault record and the held instruction. -/
def SameRunState (s t : State) : Prop := t.run = s.run ∧ t.fault = s.fault ∧ t.held = s.held

/-- `COND` names the class of a Word, by the three ranges of 10_state.md R26. -/
def FlagsShow (v : Word) (t : State) : Prop :=
  (v.toNat = 0 → t.cond = flZro) ∧
  (1 ≤ v.toNat ∧ v.toNat ≤ 0x7FFF → t.cond = flPos) ∧
  (0x8000 ≤ v.toNat → t.cond = flNeg)

/-- An operate instruction or LEA defined `dr` with the value `v`, and nothing else changed. -/
def DefinesOnly (dr : Reg) (v : Word) (s t : State) : Prop :=
  t.reg dr = v ∧ SameRegsExcept dr s t ∧ FlagsShow v t ∧ t.pc = s.pc ∧
  SameMemory s t ∧ SameTerminal s t ∧ SameRunState s t

/-- A load put into `dr` what the access `MemRead(ea, 16)` returned in the state `s`, and nothing else changed but what
that access changes. At any address but `KBSR` that is nothing. -/
def LoadsOnly (dr : Reg) (ea : Word) (s t : State) : Prop :=
  t.reg dr = (s.memRead ea).1 ∧ SameRegsExcept dr s t ∧ FlagsShow (t.reg dr) t ∧ t.pc = s.pc ∧
  SameMemory (s.memRead ea).2 t ∧ t.kbd = (s.memRead ea).2.kbd ∧ t.out = s.out ∧ t.arrivals = s.arrivals ∧
  SameRunState s t ∧
  (ea ≠ 0xFE00#16 → t.reg dr = s.mem.read ea ∧ SameMemory s t ∧ t.kbd = s.kbd)

/-- A store wrote `v` at `ea`, and nothing else changed. -/
def StoresOnly (ea v : Word) (s t : State) : Prop :=
  t.mem.read ea = v ∧ SameMemoryExcept ea s t ∧ SameRegs s t ∧ t.cond = s.cond ∧ t.pc = s.pc ∧
  SameTerminal s t ∧ SameRunState s t

/-- `PC` became `v`, and nothing else changed. -/
def JumpsOnly (v : Word) (s t : State) : Prop :=
  t.pc = v ∧ SameRegs s t ∧ t.cond = s.cond ∧ SameMemory s t ∧ SameTerminal s t ∧ SameRunState s t

/-- `R7` became the incremented PC, `PC` became `v`, and nothing else changed. -/
def CallsOnly (v : Word) (s t : State) : Prop :=
  t.pc = v ∧ t.reg .r7 = s.pc ∧ SameRegsExcept .r7 s t ∧ t.cond = s.cond ∧ SameMemory s t ∧
  SameTerminal s t ∧ SameRunState s t

/-- The entry of a TRAP, and of what a routine may change nothing but the output and the run state. -/
def EntersTrapOnly (s t : State) : Prop :=
  t.reg .r7 = s.pc ∧ SameRegsExcept .r7 s t ∧ t.cond = s.cond ∧ t.pc = s.pc ∧ SameMemory s t ∧
  t.kbd = s.kbd ∧ t.arrivals = s.arrivals

/-- The keyboard byte `b` went from the head of the queue to `R0`, zero-extended, and set the flags; the queue is now
`rest`. `PC`, memory and every register but `R0` and `R7` are as they were, and no instruction is held. -/
def TakesKey (b : Byte) (rest : List Byte) (s t : State) : Prop :=
  (t.reg .r0).toNat = b.toNat ∧ FlagsShow (t.reg .r0) t ∧ t.kbd = rest ∧
  (∀ r : Reg, r ≠ .r0 → r ≠ .r7 → t.reg r = s.reg r) ∧ t.pc = s.pc ∧ SameMemory s t ∧
  t.run = s.run ∧ t.fault = s.fault ∧ t.held = none

/-- A string of nonzero words begins at `a` and ends with the zero word after it; the addresses wrap
(43_trap.md R163, R165). -/
def StringAt (s : State) (a : Word) (ws : List Word) : Prop :=
  ws.length < 65536 ∧
  (∀ (k : Nat) (w : Word), ws[k]? = some w → w ≠ 0x0000#16 ∧ s.mem.read (a + BitVec.ofNat 16 k) = w) ∧
  s.mem.read (a + BitVec.ofNat 16 ws.length) = 0x0000#16

/-! ## The spec's tables of what an instruction reads and writes -/

/-- The register whose value an instruction defines and after which it sets the flags (10_state.md R28). -/
def definedReg (i : Instr) : Option Reg :=
  match i with
  | .br _ _ => none
  | .addReg dr _ _ => some dr
  | .addImm dr _ _ => some dr
  | .ld dr _ => some dr
  | .st _ _ => none
  | .jsr _ => none
  | .jsrr _ => none
  | .andReg dr _ _ => some dr
  | .andImm dr _ _ => some dr
  | .ldr dr _ _ => some dr
  | .str _ _ _ => none
  | .rti => none
  | .notReg dr _ => some dr
  | .ldi dr _ => some dr
  | .sti _ _ => none
  | .jmp _ => none
  | .res => none
  | .lea dr _ => some dr
  | .trapGetc => some .r0
  | .trapOut => none
  | .trapPuts => none
  | .trapIn => some .r0
  | .trapPutsp => none
  | .trapHalt => none
  | .trap _ => none

/-- The column "writes" of the table of 10_state.md R22. -/
def regsWritten (i : Instr) : List Reg :=
  match i with
  | .br _ _ => []
  | .addReg dr _ _ => [dr]
  | .addImm dr _ _ => [dr]
  | .ld dr _ => [dr]
  | .st _ _ => []
  | .jsr _ => [.r7]
  | .jsrr _ => [.r7]
  | .andReg dr _ _ => [dr]
  | .andImm dr _ _ => [dr]
  | .ldr dr _ _ => [dr]
  | .str _ _ _ => []
  | .rti => []
  | .notReg dr _ => [dr]
  | .ldi dr _ => [dr]
  | .sti _ _ => []
  | .jmp _ => []
  | .res => []
  | .lea dr _ => [dr]
  | .trapGetc => [.r7, .r0]
  | .trapOut => [.r7]
  | .trapPuts => [.r7]
  | .trapIn => [.r7, .r0]
  | .trapPutsp => [.r7]
  | .trapHalt => [.r7]
  | .trap _ => [.r7]

/-- The column "reads" of the table of 10_state.md R22. -/
def regsRead (i : Instr) : List Reg :=
  match i with
  | .br _ _ => []
  | .addReg _ sr1 sr2 => [sr1, sr2]
  | .addImm _ sr1 _ => [sr1]
  | .ld _ _ => []
  | .st sr _ => [sr]
  | .jsr _ => []
  | .jsrr baseR => [baseR]
  | .andReg _ sr1 sr2 => [sr1, sr2]
  | .andImm _ sr1 _ => [sr1]
  | .ldr _ baseR _ => [baseR]
  | .str sr baseR _ => [sr, baseR]
  | .rti => []
  | .notReg _ sr => [sr]
  | .ldi _ _ => []
  | .sti sr _ => [sr]
  | .jmp baseR => [baseR]
  | .res => []
  | .lea _ _ => []
  | .trapGetc => []
  | .trapOut => [.r0]
  | .trapPuts => [.r0]
  | .trapIn => []
  | .trapPutsp => [.r0]
  | .trapHalt => []
  | .trap _ => []

/-- The instructions that write `PC` after the fetch increment (10_state.md R24, 42_control.md R146). -/
def transfersControl (i : Instr) : Bool :=
  match i with
  | .br _ _ => true
  | .addReg _ _ _ => false
  | .addImm _ _ _ => false
  | .ld _ _ => false
  | .st _ _ => false
  | .jsr _ => true
  | .jsrr _ => true
  | .andReg _ _ _ => false
  | .andImm _ _ _ => false
  | .ldr _ _ _ => false
  | .str _ _ _ => false
  | .rti => false
  | .notReg _ _ => false
  | .ldi _ _ => false
  | .sti _ _ => false
  | .jmp _ => true
  | .res => false
  | .lea _ _ => false
  | .trapGetc => false
  | .trapOut => false
  | .trapPuts => false
  | .trapIn => false
  | .trapPutsp => false
  | .trapHalt => false
  | .trap _ => false

/-- The instructions that write to the terminal (60_exceptions.md R203, R205). -/
def writesTerminal (i : Instr) : Bool :=
  match i with
  | .br _ _ => false
  | .addReg _ _ _ => false
  | .addImm _ _ _ => false
  | .ld _ _ => false
  | .st _ _ => false
  | .jsr _ => false
  | .jsrr _ => false
  | .andReg _ _ _ => false
  | .andImm _ _ _ => false
  | .ldr _ _ _ => false
  | .str _ _ _ => false
  | .rti => false
  | .notReg _ _ => false
  | .ldi _ _ => false
  | .sti _ _ => false
  | .jmp _ => false
  | .res => false
  | .lea _ _ => false
  | .trapGetc => false
  | .trapOut => true
  | .trapPuts => true
  | .trapIn => true
  | .trapPutsp => true
  | .trapHalt => true
  | .trap _ => false

/-- The address a store instruction stores to, in the state in which it executes (41_load_store.md R124 to R126). -/
def storeAddress (i : Instr) (s : State) : Option Word :=
  match i with
  | .br _ _ => none
  | .addReg _ _ _ => none
  | .addImm _ _ _ => none
  | .ld _ _ => none
  | .st _ off => some (pcRel9 s off)
  | .jsr _ => none
  | .jsrr _ => none
  | .andReg _ _ _ => none
  | .andImm _ _ _ => none
  | .ldr _ _ _ => none
  | .str _ baseR off => some (baseOffset6 (s.reg baseR) off)
  | .rti => none
  | .notReg _ _ => none
  | .ldi _ _ => none
  | .sti _ off => some (s.indirect9 off).1
  | .jmp _ => none
  | .res => none
  | .lea _ _ => none
  | .trapGetc => none
  | .trapOut => none
  | .trapPuts => none
  | .trapIn => none
  | .trapPutsp => none
  | .trapHalt => none
  | .trap _ => none

/-- Whether an instruction's own accesses (not its fetch) can be reads of `KBSR`: the loads and STI's pointer
(60_exceptions.md R205). -/
def mayPoll (i : Instr) : Bool :=
  match i with
  | .br _ _ => false
  | .addReg _ _ _ => false
  | .addImm _ _ _ => false
  | .ld _ _ => true
  | .st _ _ => false
  | .jsr _ => false
  | .jsrr _ => false
  | .andReg _ _ _ => false
  | .andImm _ _ _ => false
  | .ldr _ _ _ => true
  | .str _ _ _ => false
  | .rti => false
  | .notReg _ _ => false
  | .ldi _ _ => true
  | .sti _ _ => true
  | .jmp _ => false
  | .res => false
  | .lea _ _ => false
  | .trapGetc => false
  | .trapOut => false
  | .trapPuts => false
  | .trapIn => false
  | .trapPutsp => false
  | .trapHalt => false
  | .trap _ => false

end Sys2Proof.Machine
end

