-- ==== Sys2Proof/Certificates/Slice0/Obligations.lean ====
section
/-! DEFINITION. The statements for the provers, from the numbered rules of spec/ file by file. Encodings are written as
the spec writes them, bit 15 first, the ignored bits as variables. `exec` runs on the state after the fetch, in which
`PC` is the incremented PC. -/

open Sys2Proof Sys2Proof.Machine

/-! ## State, flags and memory -/

/-- 70_reset_and_hazards.md section 1, 10_state.md section 9. That the queue and the arrivals are arguments is the spec's
D13; that `State.reset` takes no image, the entry 0x3000 and an empty keyboard is the model's choice (log entries 2
and 6). -/
def Obligations.ResetGivesEveryPieceOfStateItsValue : Prop :=
  (∀ (image : Memory) (entry : Word) (kbd : List Byte) (arrivals : Arrivals),
    let s := State.resetWith image entry kbd arrivals
    (∀ r : Reg, s.reg r = 0x0000#16) ∧ s.pc = entry ∧ s.cond = flZro ∧
    (∀ a : Word, s.mem.read a = image.read a) ∧ s.run = .running ∧ s.fault = none ∧ s.out = [] ∧
    s.kbd = kbd ∧ s.arrivals = arrivals ∧ s.held = none) ∧
  State.reset = State.resetWith [] 0x3000#16 [] ⟨[], .silent⟩ ∧
  (∀ a : Word, State.reset.mem.read a = 0x0000#16)

/-- 10_state.md R21. -/
def Obligations.RegistersHoldWhatWasLastWritten : Prop :=
  (∀ (s : State) (r : Reg) (v : Word),
    (s.setReg r v).reg r = v ∧ SameRegsExcept r s (s.setReg r v) ∧ (s.setReg r v).pc = s.pc ∧
    (s.setReg r v).cond = s.cond ∧ (s.setReg r v).mem = s.mem ∧ SameTerminal s (s.setReg r v) ∧
    SameRunState s (s.setReg r v)) ∧
  (∀ r : Reg, ∃ b : BitVec 3, Reg.ofBits b = r ∧ ∀ c : BitVec 3, Reg.ofBits c = r → c = b) ∧
  (∀ (image : Memory) (entry : Word) (kbd : List Byte) (arrivals : Arrivals) (r : Reg),
    (State.resetWith image entry kbd arrivals).reg r = 0x0000#16)

/-- 10_state.md R26: the three cases as the ranges 0x0000, 0x0001 to 0x7FFF and 0x8000 to 0xFFFF, three different values,
and no other effect. -/
def Obligations.UpdateFlagsClassifiesTheRegisterAndWritesOnlyCond : Prop :=
  ∀ (s : State) (r : Reg),
    FlagsShow (s.reg r) (s.updateFlags r) ∧
    (flPos ≠ flZro ∧ flZro ≠ flNeg ∧ flPos ≠ flNeg) ∧
    SameRegs s (s.updateFlags r) ∧ (s.updateFlags r).pc = s.pc ∧ (s.updateFlags r).mem = s.mem ∧
    SameTerminal s (s.updateFlags r) ∧ SameRunState s (s.updateFlags r)

/-- 20_memory.md R56: a store at any address, 0xFE00 and 0xFE02 included, changes that cell and nothing else. -/
def Obligations.MemWriteStoresTheWordAndChangesNothingElse : Prop :=
  ∀ (s : State) (a v : Word),
    (s.memWrite a v).mem.read a = v ∧ SameMemoryExcept a s (s.memWrite a v) ∧ SameRegs s (s.memWrite a v) ∧
    (s.memWrite a v).pc = s.pc ∧ (s.memWrite a v).cond = s.cond ∧ SameTerminal s (s.memWrite a v) ∧
    SameRunState s (s.memWrite a v)

/-- 20_memory.md section 3 (`MemRead`), with the spec's decisions D3 (the whole word 0x8000), D12 (zero extension) and D26
(the poll consumes the key), and conflict C1 (0xFE02 is a plain cell). -/
def Obligations.MemReadPollsTheKeyboardAtKbsrOnly : Prop :=
  ∀ (s : State),
    (∀ a : Word, a ≠ 0xFE00#16 → s.memRead a = (s.mem.read a, s)) ∧
    (s.kbd = [] →
      (s.memRead 0xFE00#16).1 = 0x0000#16 ∧ (s.memRead 0xFE00#16).2.mem.read 0xFE00#16 = 0x0000#16 ∧
      SameMemoryExcept 0xFE00#16 s (s.memRead 0xFE00#16).2 ∧ (s.memRead 0xFE00#16).2.kbd = []) ∧
    (∀ (b : Byte) (rest : List Byte), s.kbd = b :: rest →
      (s.memRead 0xFE00#16).1 = 0x8000#16 ∧ (s.memRead 0xFE00#16).2.mem.read 0xFE00#16 = 0x8000#16 ∧
      ((s.memRead 0xFE00#16).2.mem.read 0xFE02#16).toNat = b.toNat ∧
      (∀ a : Word, a ≠ 0xFE00#16 → a ≠ 0xFE02#16 → (s.memRead 0xFE00#16).2.mem.read a = s.mem.read a) ∧
      (s.memRead 0xFE00#16).2.kbd = rest) ∧
    SameRegs s (s.memRead 0xFE00#16).2 ∧ (s.memRead 0xFE00#16).2.pc = s.pc ∧
    (s.memRead 0xFE00#16).2.cond = s.cond ∧ (s.memRead 0xFE00#16).2.out = s.out ∧
    (s.memRead 0xFE00#16).2.arrivals = s.arrivals ∧ SameRunState s (s.memRead 0xFE00#16).2

/-- Of the model's own representation of `M` (10_state.md section 5; log entry 1): in canonical form, memories that read
alike at every address are the same list. -/
def Obligations.CanonicalMemoriesThatReadAlikeAreEqual : Prop :=
  ∀ m n : Memory, m.wf = true → n.wf = true → (∀ a : Word, m.read a = n.read a) → m = n

/-! ## Encoding -/

/-- 30_encoding.md R86, for the four widths: the OR with the mask, the equivalent sum, and the signed value kept. -/
def Obligations.SignExtensionKeepsTheSignedValue : Prop :=
  ∀ n : Nat, (n = 5 ∨ n = 6 ∨ n = 9 ∨ n = 11) → ∀ v : BitVec n,
    (v.getLsbD (n - 1) = true → sext v = v.setWidth 16 ||| (0xFFFF#16 <<< n)) ∧
    (v.getLsbD (n - 1) = false → sext v = v.setWidth 16) ∧
    (v.toNat < 2 ^ (n - 1) → (sext v).toNat = v.toNat) ∧
    (2 ^ (n - 1) ≤ v.toNat → (sext v).toNat = v.toNat + 65536 - 2 ^ n) ∧
    (sext v).toInt = v.toInt

/-- 30_encoding.md R82: every word matches the row its instruction stands for, that row is in the table, and any other
row of the table it matches is the fallback TRAP row, which the larger mask overrules. -/
def Obligations.EveryWordSelectsExactlyOneRowOfTheOpcodeTable : Prop :=
  ∀ w : Word,
    (decode w).row ∈ opcodeTable ∧ (decode w).row.matchesWord w = true ∧
    (∀ r ∈ opcodeTable, r.matchesWord w = true →
      r = (decode w).row ∨ (r = opcodeRowFallback ∧ (decode w).row.mask = 0xF0FF#16))

/-- 30_encoding.md section 4, ignored bits: the spec's decision D4. -/
def Obligations.IgnoredBitsDoNotChangeTheInstruction : Prop :=
  ∀ w x : Word, x &&& ~~~ ignoredBits (decode w) = 0x0000#16 → decode (w ^^^ x) = decode w

/-- 30_encoding.md sections 3 and 4: no bit of an encoding is dropped, and every word decodes to a well-formed
instruction. -/
def Obligations.DecodeOfEncodeIsTheInstruction : Prop :=
  (∀ i : Instr, wellFormed i = true → decode (encode i) = i) ∧ (∀ w : Word, wellFormed (decode w) = true)

/-- Words of 40_operate.md to 43_trap.md, their examples. -/
def Obligations.WordsOfTheSpecDecodeToTheirInstructions : Prop :=
  decode 0x1003#16 = .addReg .r0 .r0 .r3 ∧ decode 0x127F#16 = .addImm .r1 .r1 0x1F#5 ∧
  decode 0x903F#16 = .notReg .r0 .r0 ∧ decode 0x2004#16 = .ld .r0 0x004#9 ∧
  decode 0x71BF#16 = .str .r0 .r6 0x3F#6 ∧ decode 0x03FB#16 = .br 0b001#3 0x1FB#9 ∧
  decode 0xC1C0#16 = .jmp .r7 ∧ decode 0x4805#16 = .jsr 0x005#11 ∧ decode 0x4080#16 = .jsrr .r2 ∧
  decode 0xD000#16 = .res ∧ decode 0xF025#16 = .trapHalt ∧ decode 0xF000#16 = .trap 0x00#8

/-! ## The step -/

/-- 30_encoding.md section 2 (the instruction cycle), with 20_memory.md section 3 for a fetch at `KBSR`. Before the fetch
the environment's bytes arrive (`State.arrive`, D13; log entry 6), and an instruction that is held goes on instead (log
entry 7). -/
def Obligations.StepFetchesIncrementsAndRunsTheDecodedInstruction : Prop :=
  ∀ s : State, s.run = .running → s.held = none →
    step s = exec (decode (s.arrive.memRead s.pc).1) ((s.arrive.memRead s.pc).2.setPc (s.pc + 1)) ∧
    (s.pc ≠ 0xFE00#16 → step s = exec (decode (s.mem.read s.pc)) (s.arrive.setPc (s.pc + 1))) ∧
    (s.arrive.kbd = s.kbd ++ s.arrivals.next ∧ s.arrive.arrivals = s.arrivals.later ∧ SameRegs s s.arrive ∧
      s.arrive.pc = s.pc ∧ s.arrive.cond = s.cond ∧ s.arrive.mem = s.mem ∧ s.arrive.out = s.out ∧
      SameRunState s s.arrive)

/-- 10_state.md section 6 (run state), the spec's decision D15: no state changes in HALTED and FAULTED. That the step
answers the same state is the model's choice (log entry 5). -/
def Obligations.HaltedAndFaultedAreFrozen : Prop :=
  ∀ s : State, s.run ≠ .running → step s = .next s

/-- 60_exceptions.md section 1: no memory access, no address computation, no arithmetic and no terminal call raises a
fault. That `exec` and `step` therefore answer a NEXT state everywhere is the model's form of it: the two faults are next
states (log entry 10), a step in HALTED and FAULTED, where the spec has none, answers the same state (log entry 5), a
blocked GETC or IN answers a held state (log entry 7), and so does a PUTS or PUTSP whose step the spec says never completes
(log entry 8). -/
def Obligations.EveryInstructionAndEveryStepAnswersANextState : Prop :=
  (∀ (i : Instr) (s : State), ∃ t, exec i s = .next t) ∧ (∀ s : State, ∃ t, step s = .next t)

/-! ## Operate instructions -/

/-- 40_operate.md section 1, ADD register form; bits 4:3 ignored by the spec's decision D4. -/
def Obligations.AddRegisterFormAddsModulo65536 : Prop :=
  ∀ (dr sr1 sr2 : BitVec 3) (x : BitVec 2) (s : State),
    decode (0b0001#4 ++ dr ++ sr1 ++ 0b0#1 ++ x ++ sr2) =
      .addReg (Reg.ofBits dr) (Reg.ofBits sr1) (Reg.ofBits sr2) ∧
    ∃ t, exec (.addReg (Reg.ofBits dr) (Reg.ofBits sr1) (Reg.ofBits sr2)) s = .next t ∧
      DefinesOnly (Reg.ofBits dr) (s.reg (Reg.ofBits sr1) + s.reg (Reg.ofBits sr2)) s t

/-- 40_operate.md R111. -/
def Obligations.AddImmediateFormAddsTheSignExtendedImmediate : Prop :=
  ∀ (dr sr1 : BitVec 3) (imm5 : BitVec 5) (s : State),
    decode (0b0001#4 ++ dr ++ sr1 ++ 0b1#1 ++ imm5) = .addImm (Reg.ofBits dr) (Reg.ofBits sr1) imm5 ∧
    ∃ t, exec (.addImm (Reg.ofBits dr) (Reg.ofBits sr1) imm5) s = .next t ∧
      DefinesOnly (Reg.ofBits dr) (s.reg (Reg.ofBits sr1) + sext imm5) s t

/-- 40_operate.md section 2, AND register form; bits 4:3 ignored by the spec's decision D4. -/
def Obligations.AndRegisterFormAndsAllSixteenBits : Prop :=
  ∀ (dr sr1 sr2 : BitVec 3) (x : BitVec 2) (s : State),
    decode (0b0101#4 ++ dr ++ sr1 ++ 0b0#1 ++ x ++ sr2) =
      .andReg (Reg.ofBits dr) (Reg.ofBits sr1) (Reg.ofBits sr2) ∧
    ∃ t, exec (.andReg (Reg.ofBits dr) (Reg.ofBits sr1) (Reg.ofBits sr2)) s = .next t ∧
      DefinesOnly (Reg.ofBits dr) (s.reg (Reg.ofBits sr1) &&& s.reg (Reg.ofBits sr2)) s t

/-- 40_operate.md R113. -/
def Obligations.AndImmediateFormAndsTheSignExtendedImmediate : Prop :=
  ∀ (dr sr1 : BitVec 3) (imm5 : BitVec 5) (s : State),
    decode (0b0101#4 ++ dr ++ sr1 ++ 0b1#1 ++ imm5) = .andImm (Reg.ofBits dr) (Reg.ofBits sr1) imm5 ∧
    ∃ t, exec (.andImm (Reg.ofBits dr) (Reg.ofBits sr1) imm5) s = .next t ∧
      DefinesOnly (Reg.ofBits dr) (s.reg (Reg.ofBits sr1) &&& sext imm5) s t

/-- 40_operate.md section 3, NOT: `0xFFFF - R[sr]`; bits 5:0 ignored by the spec's decision D4. -/
def Obligations.NotComplementsTheSource : Prop :=
  ∀ (dr sr : BitVec 3) (x : BitVec 6) (s : State),
    decode (0b1001#4 ++ dr ++ sr ++ x) = .notReg (Reg.ofBits dr) (Reg.ofBits sr) ∧
    ∃ t, exec (.notReg (Reg.ofBits dr) (Reg.ofBits sr)) s = .next t ∧
      DefinesOnly (Reg.ofBits dr) (0xFFFF#16 - s.reg (Reg.ofBits sr)) s t

/-! ## Data movement instructions -/

/-- 41_load_store.md R120. -/
def Obligations.LdLoadsFromThePcRelativeAddress : Prop :=
  ∀ (dr : BitVec 3) (off : BitVec 9) (s : State),
    decode (0b0010#4 ++ dr ++ off) = .ld (Reg.ofBits dr) off ∧
    ∃ t, exec (.ld (Reg.ofBits dr) off) s = .next t ∧ LoadsOnly (Reg.ofBits dr) (s.pc + sext off) s t

/-- 41_load_store.md R121: the second access is made in the state the first one leaves. -/
def Obligations.LdiLoadsThroughThePointerCell : Prop :=
  ∀ (dr : BitVec 3) (off : BitVec 9) (s : State),
    decode (0b1010#4 ++ dr ++ off) = .ldi (Reg.ofBits dr) off ∧
    ∃ t, exec (.ldi (Reg.ofBits dr) off) s = .next t ∧
      LoadsOnly (Reg.ofBits dr) (s.memRead (s.pc + sext off)).1 (s.memRead (s.pc + sext off)).2 t ∧
      SameRegsExcept (Reg.ofBits dr) s t ∧ t.pc = s.pc ∧ t.out = s.out ∧ t.arrivals = s.arrivals ∧
      SameRunState s t ∧
      (s.pc + sext off ≠ 0xFE00#16 →
        LoadsOnly (Reg.ofBits dr) (s.mem.read (s.pc + sext off)) s t)

/-- 41_load_store.md R122: the address is formed from the old value of the base register, which is written only as the
destination. -/
def Obligations.LdrLoadsFromBasePlusOffset : Prop :=
  ∀ (dr baseR : BitVec 3) (off : BitVec 6) (s : State),
    decode (0b0110#4 ++ dr ++ baseR ++ off) = .ldr (Reg.ofBits dr) (Reg.ofBits baseR) off ∧
    ∃ t, exec (.ldr (Reg.ofBits dr) (Reg.ofBits baseR) off) s = .next t ∧
      LoadsOnly (Reg.ofBits dr) (s.reg (Reg.ofBits baseR) + sext off) s t

/-- 41_load_store.md R123: the address itself, with no memory access. -/
def Obligations.LeaLoadsTheAddressAndSetsTheFlags : Prop :=
  ∀ (dr : BitVec 3) (off : BitVec 9) (s : State),
    decode (0b1110#4 ++ dr ++ off) = .lea (Reg.ofBits dr) off ∧
    ∃ t, exec (.lea (Reg.ofBits dr) off) s = .next t ∧ DefinesOnly (Reg.ofBits dr) (s.pc + sext off) s t

/-- 41_load_store.md R124. -/
def Obligations.StStoresAtThePcRelativeAddress : Prop :=
  ∀ (sr : BitVec 3) (off : BitVec 9) (s : State),
    decode (0b0011#4 ++ sr ++ off) = .st (Reg.ofBits sr) off ∧
    ∃ t, exec (.st (Reg.ofBits sr) off) s = .next t ∧
      StoresOnly (s.pc + sext off) (s.reg (Reg.ofBits sr)) s t

/-- 41_load_store.md R125: the store is made in the state the pointer's read leaves. -/
def Obligations.StiStoresThroughThePointerCell : Prop :=
  ∀ (sr : BitVec 3) (off : BitVec 9) (s : State),
    decode (0b1011#4 ++ sr ++ off) = .sti (Reg.ofBits sr) off ∧
    ∃ t, exec (.sti (Reg.ofBits sr) off) s = .next t ∧
      StoresOnly (s.memRead (s.pc + sext off)).1 (s.reg (Reg.ofBits sr)) (s.memRead (s.pc + sext off)).2 t ∧
      SameRegs s t ∧ t.cond = s.cond ∧ t.pc = s.pc ∧ t.out = s.out ∧ t.arrivals = s.arrivals ∧
      SameRunState s t ∧
      (s.pc + sext off ≠ 0xFE00#16 →
        StoresOnly (s.mem.read (s.pc + sext off)) (s.reg (Reg.ofBits sr)) s t)

/-- 41_load_store.md R126. -/
def Obligations.StrStoresAtBasePlusOffset : Prop :=
  ∀ (sr baseR : BitVec 3) (off : BitVec 6) (s : State),
    decode (0b0111#4 ++ sr ++ baseR ++ off) = .str (Reg.ofBits sr) (Reg.ofBits baseR) off ∧
    ∃ t, exec (.str (Reg.ofBits sr) (Reg.ofBits baseR) off) s = .next t ∧
      StoresOnly (s.reg (Reg.ofBits baseR) + sext off) (s.reg (Reg.ofBits sr)) s t

/-! ## Control instructions -/

/-- 42_control.md section 1, BR. Which of `n`, `z`, `p` names which flag is the spec's decision D1 (log entry 4); the last
clause says so for each value `COND` can have. -/
def Obligations.BrBranchesExactlyWhenAConditionBitIsMet : Prop :=
  ∀ (n z p : BitVec 1) (off : BitVec 9) (s : State),
    decode (0b0000#4 ++ (n ++ z ++ p) ++ off) = .br (n ++ z ++ p) off ∧
    ∃ t, exec (.br (n ++ z ++ p) off) s = .next t ∧
      (s.cond &&& (n ++ z ++ p).setWidth 16 ≠ 0x0000#16 → JumpsOnly (s.pc + sext off) s t) ∧
      (s.cond &&& (n ++ z ++ p).setWidth 16 = 0x0000#16 → t = s) ∧
      (CondLegal s.cond →
        (s.cond &&& (n ++ z ++ p).setWidth 16 ≠ 0x0000#16 ↔
          (n = 1#1 ∧ s.cond = flNeg) ∨ (z = 1#1 ∧ s.cond = flZro) ∨ (p = 1#1 ∧ s.cond = flPos)))

/-- 42_control.md section 2, JMP; bits 11:9 and 5:0 ignored by the spec's decision D4. -/
def Obligations.JmpJumpsToTheBaseRegister : Prop :=
  ∀ (x : BitVec 3) (baseR : BitVec 3) (y : BitVec 6) (s : State),
    decode (0b1100#4 ++ x ++ baseR ++ y) = .jmp (Reg.ofBits baseR) ∧
    ∃ t, exec (.jmp (Reg.ofBits baseR)) s = .next t ∧ JumpsOnly (s.reg (Reg.ofBits baseR)) s t

/-- 42_control.md R142. -/
def Obligations.JsrLinksAndJumpsPcRelative : Prop :=
  ∀ (off : BitVec 11) (s : State),
    decode (0b0100#4 ++ 0b1#1 ++ off) = .jsr off ∧
    ∃ t, exec (.jsr off) s = .next t ∧ CallsOnly (s.pc + sext off) s t

/-- 42_control.md section 3, JSRR; the order of the two writes is the spec's decision D23, the ignored bits 10:9 and 5:0
its D4. -/
def Obligations.JsrrLinksBeforeItReadsTheBaseRegister : Prop :=
  ∀ (x : BitVec 2) (baseR : BitVec 3) (y : BitVec 6) (s : State),
    decode (0b0100#4 ++ 0b0#1 ++ x ++ baseR ++ y) = .jsrr (Reg.ofBits baseR) ∧
    ∃ t, exec (.jsrr (Reg.ofBits baseR)) s = .next t ∧
      (Reg.ofBits baseR ≠ .r7 → CallsOnly (s.reg (Reg.ofBits baseR)) s t) ∧
      (Reg.ofBits baseR = .r7 → CallsOnly s.pc s t)

/-- 42_control.md section 4 and 60_exceptions.md section 1: opcodes 8 and 13 raise DecodeFault. The recorded address and
opcode are the spec's decision D5, the ignored bits its D4. -/
def Obligations.RtiAndResRaiseDecodeFault : Prop :=
  ∀ (x : BitVec 12) (s : State),
    decode (0b1000#4 ++ x) = .rti ∧ decode (0b1101#4 ++ x) = .res ∧
    (∃ t, exec .rti s = .next t ∧ t.fault = some ⟨.decodeFault 8#4, s.pc - 1⟩ ∧ t.run = .faulted ∧
      SameRegs s t ∧ t.pc = s.pc ∧ t.cond = s.cond ∧ SameMemory s t ∧ SameTerminal s t ∧ t.held = s.held) ∧
    (∃ t, exec .res s = .next t ∧ t.fault = some ⟨.decodeFault 13#4, s.pc - 1⟩ ∧ t.run = .faulted ∧
      SameRegs s t ∧ t.pc = s.pc ∧ t.cond = s.cond ∧ SameMemory s t ∧ SameTerminal s t ∧ t.held = s.held)

/-! ## TRAP -/

/-- 43_trap.md section 2, GETC: with a key (zero-extended by the spec's D12) it completes in its step, without one it
stays held after the entry (60_exceptions.md section 5, D14; `held` is the model's own, log entry 7). -/
def Obligations.GetcTakesAKeyOrIsHeld : Prop :=
  ∀ (x : BitVec 4) (s : State),
    decode (0b1111#4 ++ x ++ 0x20#8) = .trapGetc ∧
    (∀ (b : Byte) (rest : List Byte), s.kbd = b :: rest →
      ∃ t, exec .trapGetc s = .next t ∧ TakesKey b rest s t ∧ t.reg .r7 = s.pc ∧ t.out = s.out ∧
        t.arrivals = s.arrivals) ∧
    (s.kbd = [] →
      ∃ t, exec .trapGetc s = .next t ∧ EntersTrapOnly s t ∧ t.out = s.out ∧ t.run = s.run ∧
        t.fault = s.fault ∧ t.held = some .getc)

/-- 43_trap.md section 2, OUT; bits 11:8 ignored by the spec's decision D4. -/
def Obligations.OutWritesTheLowByteOfR0 : Prop :=
  ∀ (x : BitVec 4) (s : State),
    decode (0b1111#4 ++ x ++ 0x21#8) = .trapOut ∧
    ∃ t, exec .trapOut s = .next t ∧ EntersTrapOnly s t ∧ t.out = s.out ++ [(s.reg .r0).setWidth 8] ∧
      SameRunState s t

/-- 43_trap.md section 2, PUTS, with the spec's decisions D7 (plain reads that wrap) and D8 (the low byte). -/
def Obligations.PutsWritesTheLowByteOfEachWordOfTheString : Prop :=
  ∀ (x : BitVec 4) (s : State),
    decode (0b1111#4 ++ x ++ 0x22#8) = .trapPuts ∧
    (∀ ws : List Word, StringAt s (s.reg .r0) ws →
      ∃ t, exec .trapPuts s = .next t ∧ EntersTrapOnly s t ∧
        t.out = s.out ++ ws.map (fun w : Word => w.setWidth 8) ∧
        t.run = s.run ∧ t.fault = s.fault ∧ t.held = none)

/-- 43_trap.md section 2, IN: the prompt, the read, the echo of exactly the byte read; the prompt is out while the read is
held (60_exceptions.md section 5, D14; `held` is the model's own, log entry 7). For every prompt. -/
def Obligations.InPromptsTakesAKeyAndEchoesItOrIsHeld : Prop :=
  ∀ (x : BitVec 4) (s : State),
    decode (0b1111#4 ++ x ++ 0x23#8) = .trapIn ∧
    (∀ (b : Byte) (rest : List Byte), s.kbd = b :: rest →
      ∃ t, exec .trapIn s = .next t ∧ TakesKey b rest s t ∧ t.reg .r7 = s.pc ∧
        t.out = s.out ++ Config.inPrompt ++ [b] ∧ t.arrivals = s.arrivals) ∧
    (s.kbd = [] →
      ∃ t, exec .trapIn s = .next t ∧ EntersTrapOnly s t ∧ t.out = s.out ++ Config.inPrompt ∧
        t.run = s.run ∧ t.fault = s.fault ∧ t.held = some .inChar)

/-- 43_trap.md section 2, PUTSP, with the spec's decisions D7 and D25 (a zero low byte is written). -/
def Obligations.PutspWritesTheLowThenTheNonzeroHighByte : Prop :=
  ∀ (x : BitVec 4) (s : State),
    decode (0b1111#4 ++ x ++ 0x24#8) = .trapPutsp ∧
    (∀ ws : List Word, StringAt s (s.reg .r0) ws →
      ∃ t, exec .trapPutsp s = .next t ∧ EntersTrapOnly s t ∧
        t.out = s.out ++ ws.flatMap (fun w : Word =>
          w.setWidth 8 :: (if w.toNat < 256 then [] else [(w >>> 8).setWidth 8])) ∧
        t.run = s.run ∧ t.fault = s.fault ∧ t.held = none)

/-- 43_trap.md section 2, HALT. For every notice. -/
def Obligations.HaltWritesTheNoticeAndHalts : Prop :=
  ∀ (x : BitVec 4) (s : State),
    decode (0b1111#4 ++ x ++ 0x25#8) = .trapHalt ∧
    ∃ t, exec .trapHalt s = .next t ∧ EntersTrapOnly s t ∧ t.out = s.out ++ Config.haltNotice ∧
      t.run = .halted ∧ t.fault = s.fault ∧ t.held = s.held

/-- 43_trap.md section 2, the unserved vectors, with the spec's decisions D5 (the record) and D6 (`R7` is written
first). -/
def Obligations.UnservedTrapVectorsRaiseTrapFault : Prop :=
  ∀ (x : BitVec 4) (v : BitVec 8) (s : State), (v.toNat < 0x20 ∨ 0x25 < v.toNat) →
    decode (0b1111#4 ++ x ++ v) = .trap v ∧
    ∃ t, exec (.trap v) s = .next t ∧ EntersTrapOnly s t ∧ t.fault = some ⟨.trapFault v, s.pc - 1⟩ ∧
      t.run = .faulted ∧ t.out = s.out ∧ t.held = s.held

/-- 43_trap.md section 2 (PUTS and PUTSP) and 70_reset_and_hazards.md section 2: a string routine ends exactly when some
cell of memory is zero. Otherwise it writes for ever in RUNNING: the model holds it and writes one round of memory a step
(log entry 8). That the walk wraps and reads 0xFE00 plainly, with no poll that could return 0x0000 there, is the spec's
decision D7 (log entry 16). -/
def Obligations.StringRoutinesEndExactlyWhenMemoryHoldsAZeroWord : Prop :=
  ∀ s : State,
    (∃ t, exec .trapPuts s = .next t ∧ EntersTrapOnly s t ∧ t.run = s.run ∧ t.fault = s.fault ∧
      (∃ w, t.out = s.out ++ w) ∧
      ((∃ a : Word, s.mem.read a = 0x0000#16) → t.held = none) ∧
      ((∀ a : Word, s.mem.read a ≠ 0x0000#16) →
        t.held = some .puts ∧ t.out.length = s.out.length + 65536)) ∧
    (∃ t, exec .trapPutsp s = .next t ∧ EntersTrapOnly s t ∧ t.run = s.run ∧ t.fault = s.fault ∧
      (∃ w, t.out = s.out ++ w) ∧
      ((∃ a : Word, s.mem.read a = 0x0000#16) → t.held = none) ∧
      ((∀ a : Word, s.mem.read a ≠ 0x0000#16) →
        t.held = some .putsp ∧ s.out.length + 65536 ≤ t.out.length))

/-- The same for a string routine that is held, step after step (70_reset_and_hazards.md section 2; log entry 8). It reads
no key: the queue only grows by what arrives. The plain reads, at 0xFE00 too, and the wrap are the spec's decision D7 (log
entry 16). -/
def Obligations.HeldStringRoutinesWriteForEver : Prop :=
  ∀ s : State, s.run = .running → (s.held = some .puts ∨ s.held = some .putsp) →
    (∀ a : Word, s.mem.read a ≠ 0x0000#16) →
    ∃ t, step s = .next t ∧ t.held = s.held ∧ t.run = .running ∧ t.fault = s.fault ∧ SameRegs s t ∧
      t.pc = s.pc ∧ t.cond = s.cond ∧ t.mem = s.mem ∧ t.kbd = s.kbd ++ s.arrivals.next ∧ t.arrivals = s.arrivals.later ∧
      (∃ w, 65536 ≤ w.length ∧ t.out = s.out ++ w)

/-- 60_exceptions.md section 5 (blocking), the spec's D14: while the queue stays empty a held GETC or IN changes nothing;
when bytes have arrived it takes the first and completes, IN with its echo. No second entry and no second prompt.
`held` and `arrivals` are the model's own (log entries 6 and 7). The zero extension of the byte is the spec's D12 (log
entry 18), that memory stays its D21 (log entry 21). -/
def Obligations.HeldGetcAndInWaitForAByteAndThenComplete : Prop :=
  ∀ s : State, s.run = .running → (s.held = some .getc ∨ s.held = some .inChar) →
    (s.kbd ++ s.arrivals.next = [] → step s = .next s.arrive) ∧
    (∀ (b : Byte) (rest : List Byte), s.kbd ++ s.arrivals.next = b :: rest →
      ∃ t, step s = .next t ∧ TakesKey b rest s t ∧ t.reg .r7 = s.reg .r7 ∧ t.arrivals = s.arrivals.later ∧
        (s.held = some .getc → t.out = s.out) ∧ (s.held = some .inChar → t.out = s.out ++ [b]))

/-! ## Rules of the whole machine -/

/-- The invariant at reset, for every image in canonical form (10_state.md sections 4 and 9). The link and held clauses
of the invariant rest on log entry 7. -/
def Obligations.ResetMeetsTheInvariant : Prop :=
  (∀ (image : Memory) (entry : Word) (kbd : List Byte) (arrivals : Arrivals),
    image.wf = true → (State.resetWith image entry kbd arrivals).Inv) ∧ State.reset.Inv

/-- 10_state.md sections 4 and 6, 60_exceptions.md section 1, 70_reset_and_hazards.md section 2: `COND` is always one of
its three values, memory keeps its canonical form, the fault record is there exactly in FAULTED and names the address
before `PC`, and `R7` is the return address wherever a TRAP ended the run or is held. -/
def Obligations.EveryStepKeepsTheInvariant : Prop :=
  ∀ s t : State, s.Inv → step s = .next t → t.Inv

/-- 10_state.md section 3, 42_control.md section 5: after the fetch increment, `PC` is written only by BR, JMP, JSR and
JSRR. -/
def Obligations.OnlyControlTransfersWritePc : Prop :=
  ∀ (i : Instr) (s t : State), exec i s = .next t → transfersControl i = false → t.pc = s.pc

/-- 10_state.md section 4 and conflict C2: the flags are set from the defined register by ADD, AND, NOT, LD, LDI, LDR, LEA
and by GETC and IN when they take a byte (D14, log entry 7), and by nothing else. -/
def Obligations.CondIsWrittenOnlyWithADefinedRegister : Prop :=
  ∀ (i : Instr) (s t : State), exec i s = .next t →
    (definedReg i = none → t.cond = s.cond) ∧
    (∀ d : Reg, definedReg i = some d →
      FlagsShow (t.reg d) t ∨
      ((i = .trapGetc ∨ i = .trapIn) ∧ s.kbd = [] ∧ t.cond = s.cond ∧ (d ≠ .r7 → t.reg d = s.reg d)))

/-- 10_state.md section 2, the column "writes" of its table. -/
def Obligations.NoOtherRegisterIsWritten : Prop :=
  ∀ (i : Instr) (s t : State) (r : Reg), exec i s = .next t → r ∉ regsWritten i → t.reg r = s.reg r

/-- 10_state.md section 2, the column "reads" of its table: a register that an instruction does not read has no influence
on anything it does. If the instruction writes it, its old value is lost without a trace; if not, it comes through
unchanged. Only a GETC or IN that finds no key has not written `R0` yet (the spec's D14, log entry 7). -/
def Obligations.NoOtherRegisterIsRead : Prop :=
  ∀ (i : Instr) (s : State) (r : Reg) (v : Word), r ∉ regsRead i →
    ∃ t u, exec i s = .next t ∧ exec i (s.setReg r v) = .next u ∧
      (r ∉ regsWritten i → u = t.setReg r v) ∧
      (r ∈ regsWritten i →
        u = t ∨ ((i = .trapGetc ∨ i = .trapIn) ∧ s.kbd = [] ∧ r = .r0 ∧ u = t.setReg .r0 v))

/-- 20_memory.md sections 3 and 4, 60_exceptions.md section 5: memory changes only in the cell a store stores to
(`storeAddress`, the address expressions of the meanings) and, by the fetch from 0xFE00, a load or STI, in `KBSR` and
`KBDR`. That GETC and IN leave those two cells alone is the spec's decision D21 (log entry 21), that PUTS and PUTSP do its
D7 (log entry 16). -/
def Obligations.MemoryChangesOnlyByStoresAndKeyboardPolls : Prop :=
  (∀ (s : State) (a : Word), s.fetch.2.mem.read a = s.mem.read a ∨
    (s.pc = 0xFE00#16 ∧ (a = 0xFE00#16 ∨ a = 0xFE02#16))) ∧
  (∀ (i : Instr) (s t : State) (a : Word), exec i s = .next t →
    t.mem.read a = s.mem.read a ∨ storeAddress i s = some a ∨
    (mayPoll i = true ∧ (a = 0xFE00#16 ∨ a = 0xFE02#16)))

/-- 60_exceptions.md section 5 (output model and the table of terminal calls), the spec's D13. -/
def Obligations.OutputIsWrittenOnlyByTheTrapRoutines : Prop :=
  ∀ (i : Instr) (s t : State), exec i s = .next t →
    ∃ w, t.out = s.out ++ w ∧ (writesTerminal i = false → w = [])

/-- 60_exceptions.md section 5, the spec's D13, over runs of any length and every arrival pattern: the output trace only
grows; of the `n` steps exactly the first `m` are made in RUNNING, and the arrivals before those and no others have come;
the queue with them is what was consumed, in the order of arrival and each byte at most once, and then the queue as it is
now. Log entries 5 and 6. -/
def Obligations.AlongEveryRunOutputGrowsAndKeysAreTakenInOrder : Prop :=
  ∀ (n : Nat) (s t : State), Host.Core.run Sys2Proof.core n s = .next t →
    (∃ w, t.out = s.out ++ w) ∧
    (∃ m, m ≤ n ∧ (∀ k, k < m → ∃ u, Host.Core.run Sys2Proof.core k s = .next u ∧ u.run = .running) ∧
      (m < n → t.run ≠ .running ∧ Host.Core.run Sys2Proof.core m s = .next t) ∧ t.arrivals = s.arrivals.skip m ∧
      ∃ used, s.kbd ++ s.arrivals.bytes m = used ++ t.kbd)

/-- 10_state.md section 6, 70_reset_and_hazards.md section 2: a run ends in HALTED exactly by a word of TRAP 0x25, in
FAULTED exactly by a word of opcode 8 or 13 or of an unserved trap vector. The ignored bits are the spec's D4. -/
def Obligations.RunsEndOnlyByHaltAndByTheTwoFaults : Prop :=
  ∀ s t : State, s.run = .running → step s = .next t →
    let ir := (s.arrive.memRead s.pc).1
    (t.run = .halted ↔ s.held = none ∧ ir &&& 0xF0FF#16 = 0xF025#16) ∧
    (t.run = .faulted ↔ s.held = none ∧
      (ir &&& 0xF000#16 = 0x8000#16 ∨ ir &&& 0xF000#16 = 0xD000#16 ∨
        (ir &&& 0xF000#16 = 0xF000#16 ∧
          ((ir &&& 0x00FF#16).toNat < 0x20 ∨ 0x25 < (ir &&& 0x00FF#16).toNat))))

/-- 60_exceptions.md section 1 (precision and committed state), with the spec's decisions D5 and D6: of the faulting
instruction exactly the fetch, the increment of `PC` and, for TrapFault, the write of `R7` are committed. -/
def Obligations.FaultsArePrecise : Prop :=
  ∀ s t : State, s.run = .running → step s = .next t → t.run = .faulted →
    t.pc = s.pc + 1 ∧ t.cond = s.cond ∧ t.out = s.out ∧ (∀ r : Reg, r ≠ .r7 → t.reg r = s.reg r) ∧
    t.mem = (s.arrive.memRead s.pc).2.mem ∧ t.kbd = (s.arrive.memRead s.pc).2.kbd ∧
    ((∃ op : BitVec 4, t.fault = some ⟨.decodeFault op, s.pc⟩ ∧ (op = 8#4 ∨ op = 13#4) ∧
        t.reg .r7 = s.reg .r7) ∨
      (∃ v : BitVec 8, t.fault = some ⟨.trapFault v, s.pc⟩ ∧ servedVector v = false ∧
        t.reg .r7 = s.pc + 1))

/-- 20_memory.md section 5 (instruction-fetch coherence): an ST with offset 0 overwrites the cell after itself, and the
stored word is what the next step runs. -/
def Obligations.AStoredWordIsTheNextInstructionFetched : Prop :=
  ∀ (s : State) (sr : Reg), s.run = .running → s.held = none → s.pc ≠ 0xFE00#16 → s.pc + 1 ≠ 0xFE00#16 →
    decode (s.mem.read s.pc) = .st sr 0#9 →
    ∃ t, step s = .next t ∧ t.pc = s.pc + 1 ∧ t.mem.read (s.pc + 1) = s.reg sr ∧
      step t = exec (decode (s.reg sr)) (t.arrive.setPc (s.pc + 1 + 1))

/-- 20_memory.md section 6 (the image format): the words stand contiguously from the origin, nothing wraps past 0xFFFF,
every other cell is as it was, and the canonical form is kept. -/
def Obligations.LoadedWordsStandFromTheOrigin : Prop :=
  ∀ (m : Memory) (origin : Nat) (ws : List Word),
    (∀ (k : Nat) (w : Word), ws[k]? = some w → origin + k < 65536 →
      (m.load origin ws).read (BitVec.ofNat 16 (origin + k)) = w) ∧
    (∀ a : Word, (a.toNat < origin ∨ origin + ws.length ≤ a.toNat) → (m.load origin ws).read a = m.read a) ∧
    (m.wf = true → (m.load origin ws).wf = true)

/-! ## The keyboard port -/

/-- 60_exceptions.md section 5 (keyboard model), the spec's D13: the queue is first in first out, asking whether a key is
there consumes nothing, and the environment may bring any bytes before any step: any list for any number of steps, and
after it nothing or free values without end (log entry 6). -/
def Obligations.TheKeyboardIsAnUnconstrainedFifoQueue : Prop :=
  (∀ s : State, s.keyAvail = true ↔ s.kbd ≠ []) ∧
  (∀ s : State, s.readChar = none ↔ s.kbd = []) ∧
  (∀ (s : State) (b : Byte) (rest : List Byte), s.kbd = b :: rest → s.readChar = some (b, s.setKbd rest)) ∧
  (∀ s : State, s.arrive.kbd = s.kbd ++ s.arrivals.next ∧ s.arrive.arrivals = s.arrivals.later) ∧
  (∀ (listed : List (List Byte)) (src : Source) (k : Nat) (bs : List Byte), listed[k]? = some bs →
    (Arrivals.skip ⟨listed, src⟩ k).next = bs) ∧
  (∀ (listed : List (List Byte)) (k : Nat), listed.length ≤ k → (Arrivals.skip ⟨listed, .silent⟩ k).next = []) ∧
  (∀ (listed : List (List Byte)) (stream tick k : Nat), listed.length ≤ k →
    (Arrivals.skip ⟨listed, .free stream tick⟩ k).next = Config.freeArrivals stream (tick + (k - listed.length)))
end

