-- ==== Sys2Proof/Laws/Decode.lean ====
section
/-! SUPPORT. What the decoder reads from a word, said once for each row of the opcode map (30_encoding.md R82): from the
opcode field and the row's further selector to the instruction with its fields; and the register fields' two-way
encoding. -/

namespace Sys2Proof

@[simp] theorem Reg.ofBits_toBits (r : Reg) : Reg.ofBits r.toBits = r := by cases r <;> rfl

@[simp] theorem Reg.toBits_ofBits : ∀ b : BitVec 3, (Reg.ofBits b).toBits = b := by decide

theorem getLsbD_15 (w : Word) : w.getLsbD 15 = (w.extractLsb' 12 4).getLsbD 3 := by simp
theorem getLsbD_14 (w : Word) : w.getLsbD 14 = (w.extractLsb' 12 4).getLsbD 2 := by simp
theorem getLsbD_13 (w : Word) : w.getLsbD 13 = (w.extractLsb' 12 4).getLsbD 1 := by simp
theorem getLsbD_12 (w : Word) : w.getLsbD 12 = (w.extractLsb' 12 4).getLsbD 0 := by simp
theorem getLsbD_11 (w : Word) : w.getLsbD 11 = (w.extractLsb' 11 1).getLsbD 0 := by simp
theorem getLsbD_5 (w : Word) : w.getLsbD 5 = (w.extractLsb' 5 1).getLsbD 0 := by simp

/-! ## Fields of a word written field by field

The lemmas are about the formats of 30_encoding.md R84: the widths of the fields stand in the names. -/

theorem extractLsb'_append_left {n m : Nat} (a : BitVec n) (b : BitVec m) {start len : Nat} (h : m ≤ start) :
    (a ++ b).extractLsb' start len = a.extractLsb' (start - m) len := by
  ext i hi
  simp [BitVec.getLsbD_append, show ¬ start + i < m by omega, show start + i - m = start - m + i by omega]

theorem extractLsb'_append_right {n m : Nat} (a : BitVec n) (b : BitVec m) {start len : Nat} (h : start + len ≤ m) :
    (a ++ b).extractLsb' start len = b.extractLsb' start len := by
  ext i hi
  simp [BitVec.getLsbD_append, show start + i < m by omega]

theorem extractLsb'_whole {n : Nat} (a : BitVec n) : a.extractLsb' 0 n = a := by
  ext i hi
  simp

section
variable (op : BitVec 4) (a : BitVec 3) (b : BitVec 9)
theorem fields_4_3_9_op : (op ++ a ++ b).extractLsb' 12 4 = op := by
  rw [extractLsb'_append_left _ _ (by decide), extractLsb'_append_left _ _ (by decide)]
  exact extractLsb'_whole op
theorem fields_4_3_9_a : (op ++ a ++ b).extractLsb' 9 3 = a := by
  rw [extractLsb'_append_left _ _ (by decide), extractLsb'_append_right _ _ (by decide)]
  exact extractLsb'_whole a
theorem fields_4_3_9_b : (op ++ a ++ b).extractLsb' 0 9 = b := by
  rw [extractLsb'_append_right _ _ (by decide)]
  exact extractLsb'_whole b
end

section
variable (op : BitVec 4) (a : BitVec 3) (b : BitVec 3) (c : BitVec 6)
theorem fields_4_3_3_6_op : (op ++ a ++ b ++ c).extractLsb' 12 4 = op := by
  rw [extractLsb'_append_left _ _ (by decide), extractLsb'_append_left _ _ (by decide), extractLsb'_append_left _ _ (by decide)]
  exact extractLsb'_whole op
theorem fields_4_3_3_6_a : (op ++ a ++ b ++ c).extractLsb' 9 3 = a := by
  rw [extractLsb'_append_left _ _ (by decide), extractLsb'_append_left _ _ (by decide), extractLsb'_append_right _ _ (by decide)]
  exact extractLsb'_whole a
theorem fields_4_3_3_6_b : (op ++ a ++ b ++ c).extractLsb' 6 3 = b := by
  rw [extractLsb'_append_left _ _ (by decide), extractLsb'_append_right _ _ (by decide)]
  exact extractLsb'_whole b
theorem fields_4_3_3_6_c : (op ++ a ++ b ++ c).extractLsb' 0 6 = c := by
  rw [extractLsb'_append_right _ _ (by decide)]
  exact extractLsb'_whole c
end

section
variable (op : BitVec 4) (a : BitVec 3) (b : BitVec 3) (m : BitVec 1) (c : BitVec 5)
theorem fields_4_3_3_1_5_op : (op ++ a ++ b ++ m ++ c).extractLsb' 12 4 = op := by
  rw [extractLsb'_append_left _ _ (by decide), extractLsb'_append_left _ _ (by decide), extractLsb'_append_left _ _ (by decide), extractLsb'_append_left _ _ (by decide)]
  exact extractLsb'_whole op
theorem fields_4_3_3_1_5_a : (op ++ a ++ b ++ m ++ c).extractLsb' 9 3 = a := by
  rw [extractLsb'_append_left _ _ (by decide), extractLsb'_append_left _ _ (by decide), extractLsb'_append_left _ _ (by decide), extractLsb'_append_right _ _ (by decide)]
  exact extractLsb'_whole a
theorem fields_4_3_3_1_5_b : (op ++ a ++ b ++ m ++ c).extractLsb' 6 3 = b := by
  rw [extractLsb'_append_left _ _ (by decide), extractLsb'_append_left _ _ (by decide), extractLsb'_append_right _ _ (by decide)]
  exact extractLsb'_whole b
theorem fields_4_3_3_1_5_m : (op ++ a ++ b ++ m ++ c).extractLsb' 5 1 = m := by
  rw [extractLsb'_append_left _ _ (by decide), extractLsb'_append_right _ _ (by decide)]
  exact extractLsb'_whole m
theorem fields_4_3_3_1_5_c : (op ++ a ++ b ++ m ++ c).extractLsb' 0 5 = c := by
  rw [extractLsb'_append_right _ _ (by decide)]
  exact extractLsb'_whole c
end

section
variable (op : BitVec 4) (a : BitVec 3) (b : BitVec 3) (m : BitVec 1) (x : BitVec 2) (c : BitVec 3)
theorem fields_4_3_3_1_2_3_op : (op ++ a ++ b ++ m ++ x ++ c).extractLsb' 12 4 = op := by
  rw [extractLsb'_append_left _ _ (by decide), extractLsb'_append_left _ _ (by decide), extractLsb'_append_left _ _ (by decide), extractLsb'_append_left _ _ (by decide), extractLsb'_append_left _ _ (by decide)]
  exact extractLsb'_whole op
theorem fields_4_3_3_1_2_3_a : (op ++ a ++ b ++ m ++ x ++ c).extractLsb' 9 3 = a := by
  rw [extractLsb'_append_left _ _ (by decide), extractLsb'_append_left _ _ (by decide), extractLsb'_append_left _ _ (by decide), extractLsb'_append_left _ _ (by decide), extractLsb'_append_right _ _ (by decide)]
  exact extractLsb'_whole a
theorem fields_4_3_3_1_2_3_b : (op ++ a ++ b ++ m ++ x ++ c).extractLsb' 6 3 = b := by
  rw [extractLsb'_append_left _ _ (by decide), extractLsb'_append_left _ _ (by decide), extractLsb'_append_left _ _ (by decide), extractLsb'_append_right _ _ (by decide)]
  exact extractLsb'_whole b
theorem fields_4_3_3_1_2_3_m : (op ++ a ++ b ++ m ++ x ++ c).extractLsb' 5 1 = m := by
  rw [extractLsb'_append_left _ _ (by decide), extractLsb'_append_left _ _ (by decide), extractLsb'_append_right _ _ (by decide)]
  exact extractLsb'_whole m
theorem fields_4_3_3_1_2_3_c : (op ++ a ++ b ++ m ++ x ++ c).extractLsb' 0 3 = c := by
  rw [extractLsb'_append_right _ _ (by decide)]
  exact extractLsb'_whole c
end

section
variable (op : BitVec 4) (m : BitVec 1) (a : BitVec 11)
theorem fields_4_1_11_op : (op ++ m ++ a).extractLsb' 12 4 = op := by
  rw [extractLsb'_append_left _ _ (by decide), extractLsb'_append_left _ _ (by decide)]
  exact extractLsb'_whole op
theorem fields_4_1_11_m : (op ++ m ++ a).extractLsb' 11 1 = m := by
  rw [extractLsb'_append_left _ _ (by decide), extractLsb'_append_right _ _ (by decide)]
  exact extractLsb'_whole m
theorem fields_4_1_11_a : (op ++ m ++ a).extractLsb' 0 11 = a := by
  rw [extractLsb'_append_right _ _ (by decide)]
  exact extractLsb'_whole a
end

section
variable (op : BitVec 4) (m : BitVec 1) (x : BitVec 2) (a : BitVec 3) (y : BitVec 6)
theorem fields_4_1_2_3_6_op : (op ++ m ++ x ++ a ++ y).extractLsb' 12 4 = op := by
  rw [extractLsb'_append_left _ _ (by decide), extractLsb'_append_left _ _ (by decide), extractLsb'_append_left _ _ (by decide), extractLsb'_append_left _ _ (by decide)]
  exact extractLsb'_whole op
theorem fields_4_1_2_3_6_m : (op ++ m ++ x ++ a ++ y).extractLsb' 11 1 = m := by
  rw [extractLsb'_append_left _ _ (by decide), extractLsb'_append_left _ _ (by decide), extractLsb'_append_left _ _ (by decide), extractLsb'_append_right _ _ (by decide)]
  exact extractLsb'_whole m
theorem fields_4_1_2_3_6_a : (op ++ m ++ x ++ a ++ y).extractLsb' 6 3 = a := by
  rw [extractLsb'_append_left _ _ (by decide), extractLsb'_append_right _ _ (by decide)]
  exact extractLsb'_whole a
end

section
variable (op : BitVec 4) (x : BitVec 4) (a : BitVec 8)
theorem fields_4_4_8_op : (op ++ x ++ a).extractLsb' 12 4 = op := by
  rw [extractLsb'_append_left _ _ (by decide), extractLsb'_append_left _ _ (by decide)]
  exact extractLsb'_whole op
theorem fields_4_4_8_a : (op ++ x ++ a).extractLsb' 0 8 = a := by
  rw [extractLsb'_append_right _ _ (by decide)]
  exact extractLsb'_whole a
end

section
variable (op : BitVec 4) (x : BitVec 12)
theorem fields_4_12_op : (op ++ x).extractLsb' 12 4 = op := by
  rw [extractLsb'_append_left _ _ (by decide)]
  exact extractLsb'_whole op
end

/-! ## The masks of the opcode table pick fields -/

theorem and_F000 (w : Word) : w &&& 0xF000#16 = (w.extractLsb' 12 4).setWidth 16 <<< 12 := by
  ext i hi
  interval_cases i <;> simp

theorem and_F020 (w : Word) :
    w &&& 0xF020#16 = (w.extractLsb' 12 4).setWidth 16 <<< 12 ||| (w.extractLsb' 5 1).setWidth 16 <<< 5 := by
  ext i hi
  interval_cases i <;> simp

theorem and_F800 (w : Word) :
    w &&& 0xF800#16 = (w.extractLsb' 12 4).setWidth 16 <<< 12 ||| (w.extractLsb' 11 1).setWidth 16 <<< 11 := by
  ext i hi
  interval_cases i <;> simp

theorem and_F0FF (w : Word) :
    w &&& 0xF0FF#16 = (w.extractLsb' 12 4).setWidth 16 <<< 12 ||| (w.extractLsb' 0 8).setWidth 16 := by
  ext i hi
  interval_cases i <;> simp

/-! ## The opcode map -/

variable {w : Word}

theorem decode_br (h : w.extractLsb' 12 4 = 0b0000#4) :
    decode w = .br (w.extractLsb' 9 3) (w.extractLsb' 0 9) := by
  unfold decode
  rw [getLsbD_15, getLsbD_14, getLsbD_13, getLsbD_12, h]
  rfl

theorem decode_addReg (h : w.extractLsb' 12 4 = 0b0001#4) (hs : w.extractLsb' 5 1 = 0b0#1) :
    decode w = .addReg (regAt9 w) (regAt6 w) (regAt0 w) := by
  unfold decode
  rw [getLsbD_15, getLsbD_14, getLsbD_13, getLsbD_12, h]
  rw [getLsbD_5, hs]
  rfl

theorem decode_addImm (h : w.extractLsb' 12 4 = 0b0001#4) (hs : w.extractLsb' 5 1 = 0b1#1) :
    decode w = .addImm (regAt9 w) (regAt6 w) (w.extractLsb' 0 5) := by
  unfold decode
  rw [getLsbD_15, getLsbD_14, getLsbD_13, getLsbD_12, h]
  rw [getLsbD_5, hs]
  rfl

theorem decode_ld (h : w.extractLsb' 12 4 = 0b0010#4) :
    decode w = .ld (regAt9 w) (w.extractLsb' 0 9) := by
  unfold decode
  rw [getLsbD_15, getLsbD_14, getLsbD_13, getLsbD_12, h]
  rfl

theorem decode_st (h : w.extractLsb' 12 4 = 0b0011#4) :
    decode w = .st (regAt9 w) (w.extractLsb' 0 9) := by
  unfold decode
  rw [getLsbD_15, getLsbD_14, getLsbD_13, getLsbD_12, h]
  rfl

theorem decode_jsr (h : w.extractLsb' 12 4 = 0b0100#4) (hs : w.extractLsb' 11 1 = 0b1#1) :
    decode w = .jsr (w.extractLsb' 0 11) := by
  unfold decode
  rw [getLsbD_15, getLsbD_14, getLsbD_13, getLsbD_12, h]
  rw [getLsbD_11, hs]
  rfl

theorem decode_jsrr (h : w.extractLsb' 12 4 = 0b0100#4) (hs : w.extractLsb' 11 1 = 0b0#1) :
    decode w = .jsrr (regAt6 w) := by
  unfold decode
  rw [getLsbD_15, getLsbD_14, getLsbD_13, getLsbD_12, h]
  rw [getLsbD_11, hs]
  rfl

theorem decode_andReg (h : w.extractLsb' 12 4 = 0b0101#4) (hs : w.extractLsb' 5 1 = 0b0#1) :
    decode w = .andReg (regAt9 w) (regAt6 w) (regAt0 w) := by
  unfold decode
  rw [getLsbD_15, getLsbD_14, getLsbD_13, getLsbD_12, h]
  rw [getLsbD_5, hs]
  rfl

theorem decode_andImm (h : w.extractLsb' 12 4 = 0b0101#4) (hs : w.extractLsb' 5 1 = 0b1#1) :
    decode w = .andImm (regAt9 w) (regAt6 w) (w.extractLsb' 0 5) := by
  unfold decode
  rw [getLsbD_15, getLsbD_14, getLsbD_13, getLsbD_12, h]
  rw [getLsbD_5, hs]
  rfl

theorem decode_ldr (h : w.extractLsb' 12 4 = 0b0110#4) :
    decode w = .ldr (regAt9 w) (regAt6 w) (w.extractLsb' 0 6) := by
  unfold decode
  rw [getLsbD_15, getLsbD_14, getLsbD_13, getLsbD_12, h]
  rfl

theorem decode_str (h : w.extractLsb' 12 4 = 0b0111#4) :
    decode w = .str (regAt9 w) (regAt6 w) (w.extractLsb' 0 6) := by
  unfold decode
  rw [getLsbD_15, getLsbD_14, getLsbD_13, getLsbD_12, h]
  rfl

theorem decode_rti (h : w.extractLsb' 12 4 = 0b1000#4) :
    decode w = .rti := by
  unfold decode
  rw [getLsbD_15, getLsbD_14, getLsbD_13, getLsbD_12, h]
  rfl

theorem decode_notReg (h : w.extractLsb' 12 4 = 0b1001#4) :
    decode w = .notReg (regAt9 w) (regAt6 w) := by
  unfold decode
  rw [getLsbD_15, getLsbD_14, getLsbD_13, getLsbD_12, h]
  rfl

theorem decode_ldi (h : w.extractLsb' 12 4 = 0b1010#4) :
    decode w = .ldi (regAt9 w) (w.extractLsb' 0 9) := by
  unfold decode
  rw [getLsbD_15, getLsbD_14, getLsbD_13, getLsbD_12, h]
  rfl

theorem decode_sti (h : w.extractLsb' 12 4 = 0b1011#4) :
    decode w = .sti (regAt9 w) (w.extractLsb' 0 9) := by
  unfold decode
  rw [getLsbD_15, getLsbD_14, getLsbD_13, getLsbD_12, h]
  rfl

theorem decode_jmp (h : w.extractLsb' 12 4 = 0b1100#4) :
    decode w = .jmp (regAt6 w) := by
  unfold decode
  rw [getLsbD_15, getLsbD_14, getLsbD_13, getLsbD_12, h]
  rfl

theorem decode_res (h : w.extractLsb' 12 4 = 0b1101#4) :
    decode w = .res := by
  unfold decode
  rw [getLsbD_15, getLsbD_14, getLsbD_13, getLsbD_12, h]
  rfl

theorem decode_lea (h : w.extractLsb' 12 4 = 0b1110#4) :
    decode w = .lea (regAt9 w) (w.extractLsb' 0 9) := by
  unfold decode
  rw [getLsbD_15, getLsbD_14, getLsbD_13, getLsbD_12, h]
  rfl

theorem decode_trap (h : w.extractLsb' 12 4 = 0b1111#4) :
    decode w = decodeTrap (w.extractLsb' 0 8) := by
  unfold decode
  rw [getLsbD_15, getLsbD_14, getLsbD_13, getLsbD_12, h]
  rfl

/-- What opcode 15 decodes to is well-formed: the fallback takes only unserved vectors. -/
theorem wellFormed_decodeTrap : ∀ v : BitVec 8, wellFormed (decodeTrap v) = true := by decide +kernel

/-- An unserved vector falls through to the fallback row. -/
theorem decodeTrap_unserved : ∀ v : BitVec 8, servedVector v = false → decodeTrap v = .trap v := by decide +kernel

end Sys2Proof
end

