-- ==== Sys2Proof/Laws/Memory.lean ====
section
/-! SUPPORT. The laws of the array `M`: a read after a write to the same cell gives the value written, a write leaves
every other cell alone, and both the write and the loader keep the canonical form. -/

namespace Sys2Proof.Machine

@[simp] theorem Memory.read_nil (a : Word) : Memory.read [] a = Memory.unlisted := rfl

theorem Memory.read_erase_self (m : Memory) (a : Word) : Memory.read (Memory.erase m a.toNat) a = Memory.unlisted := by
  induction m with
  | nil => rfl
  | cons c m ih =>
    by_cases h : c.1 = a.toNat
    · simpa [Memory.erase, h] using ih
    · simpa [Memory.erase, Memory.read, h] using ih

theorem Memory.read_erase_of_ne (m : Memory) {k : Nat} {b : Word} (h : b.toNat ≠ k) :
    Memory.read (Memory.erase m k) b = Memory.read m b := by
  induction m with
  | nil => rfl
  | cons c m ih =>
    by_cases hc : c.1 = k
    · have hb : c.1 ≠ b.toNat := by omega
      simpa [Memory.erase, Memory.read, hc, hb, show k ≠ b.toNat by omega] using ih
    · by_cases hb : c.1 = b.toNat
      · simp [Memory.erase, Memory.read, hb, h]
      · simpa [Memory.erase, Memory.read, hc, hb] using ih

theorem Memory.read_insertCell_of_ne (m : Memory) {k : Nat} (v : Word) {b : Word} (h : b.toNat ≠ k) :
    Memory.read (Memory.insertCell m k v) b = Memory.read m b := by
  induction m with
  | nil => simp [Memory.insertCell, Memory.read, Ne.symm h]
  | cons c m ih =>
    by_cases hk : k < c.1
    · simp [Memory.insertCell, Memory.read, hk, Ne.symm h]
    · have : Memory.insertCell (c :: m) k v = c :: Memory.insertCell m k v := by simp [Memory.insertCell, hk]
      rw [this]
      by_cases hb : c.1 = b.toNat <;> simp [Memory.read, hb, ih]

theorem Memory.read_insertCell_self (m : Memory) (a v : Word) (h : ∀ c ∈ m, c.1 ≠ a.toNat) :
    Memory.read (Memory.insertCell m a.toNat v) a = v := by
  induction m with
  | nil => simp [Memory.insertCell, Memory.read]
  | cons c m ih =>
    have hc := h c (by simp)
    by_cases hk : a.toNat < c.1
    · simp [Memory.insertCell, Memory.read, hk]
    · simpa [Memory.insertCell, Memory.read, hk, hc] using ih fun d hd => h d (by simp [hd])

theorem Memory.erase_ne (m : Memory) (k : Nat) : ∀ c ∈ Memory.erase m k, c.1 ≠ k := by
  intro c hc
  simpa using (List.mem_filter.mp hc).2

/-- A read of the cell just written gives the value written. -/
@[simp] theorem Memory.read_write_self (m : Memory) (a v : Word) : (m.write a v).read a = v := by
  unfold Memory.write
  split
  · next h => rw [Memory.read_erase_self, h]
  · exact Memory.read_insertCell_self _ a v (Memory.erase_ne m _)

/-- A write leaves every other cell alone. -/
theorem Memory.read_write_of_ne (m : Memory) {a b : Word} (v : Word) (h : b ≠ a) :
    (m.write a v).read b = m.read b := by
  have hn : b.toNat ≠ a.toNat := fun e => h (BitVec.eq_of_toNat_eq e)
  unfold Memory.write
  split
  · exact Memory.read_erase_of_ne m hn
  · rw [Memory.read_insertCell_of_ne _ v hn, Memory.read_erase_of_ne m hn]

theorem Memory.read_write (m : Memory) (a b v : Word) : (m.write a v).read b = if b = a then v else m.read b := by
  by_cases h : b = a
  · subst h; simp
  · simp [h, Memory.read_write_of_ne]

/-! ## The canonical form -/

theorem Memory.wf_cons (c : Nat × Word) (m : Memory) :
    Memory.wf (c :: m) = true ↔
      c.1 < 65536 ∧ c.2 ≠ Memory.unlisted ∧ (∀ d ∈ m, c.1 < d.1) ∧ Memory.wf m = true := by
  obtain ⟨k, v⟩ := c
  simp [Memory.wf, and_assoc]

theorem Memory.wf_erase {m : Memory} (k : Nat) (h : Memory.wf m = true) : Memory.wf (Memory.erase m k) = true := by
  induction m with
  | nil => rfl
  | cons c m ih =>
    obtain ⟨hlt, hv, hall, hm⟩ := (Memory.wf_cons c m).mp h
    by_cases hc : c.1 = k
    · simpa [Memory.erase, hc] using ih hm
    · have : Memory.erase (c :: m) k = c :: Memory.erase m k := by simp [Memory.erase, hc]
      rw [this, Memory.wf_cons]
      exact ⟨hlt, hv, fun d hd => hall d (List.mem_filter.mp hd).1, ih hm⟩

theorem Memory.mem_insertCell {m : Memory} {k : Nat} {v : Word} {d : Nat × Word}
    (h : d ∈ Memory.insertCell m k v) : d = (k, v) ∨ d ∈ m := by
  induction m with
  | nil => simpa [Memory.insertCell] using h
  | cons c m ih =>
    by_cases hk : k < c.1
    · simpa [Memory.insertCell, hk] using h
    · simp only [Memory.insertCell, hk, if_false, List.mem_cons] at h
      rcases h with h | h
      · exact .inr (by simp [h])
      · exact (ih h).imp_right fun hm => List.mem_cons_of_mem _ hm

theorem Memory.wf_insertCell {m : Memory} {k : Nat} {v : Word} (h : Memory.wf m = true) (hk : k < 65536)
    (hv : v ≠ Memory.unlisted) (hne : ∀ c ∈ m, c.1 ≠ k) : Memory.wf (Memory.insertCell m k v) = true := by
  induction m with
  | nil => exact (Memory.wf_cons _ _).mpr ⟨hk, hv, by simp, rfl⟩
  | cons c m ih =>
    obtain ⟨hlt, hcv, hall, hm⟩ := (Memory.wf_cons c m).mp h
    have hck := hne c (by simp)
    by_cases hlt' : k < c.1
    · have : Memory.insertCell (c :: m) k v = (k, v) :: c :: m := by simp [Memory.insertCell, hlt']
      rw [this, Memory.wf_cons]
      refine ⟨hk, hv, fun d hd => ?_, h⟩
      rcases List.mem_cons.mp hd with rfl | hd
      · exact hlt'
      · exact Nat.lt_trans hlt' (hall d hd)
    · have : Memory.insertCell (c :: m) k v = c :: Memory.insertCell m k v := by simp [Memory.insertCell, hlt']
      rw [this, Memory.wf_cons]
      refine ⟨hlt, hcv, fun d hd => ?_, ih hm fun e he => hne e (by simp [he])⟩
      rcases Memory.mem_insertCell hd with rfl | hd
      · show c.1 < k
        omega
      · exact hall d hd

/-- A write keeps the canonical form. -/
theorem Memory.wf_write {m : Memory} (a v : Word) (h : m.wf = true) : (m.write a v).wf = true := by
  unfold Memory.write
  split
  · exact Memory.wf_erase _ h
  · next hv => exact Memory.wf_insertCell (Memory.wf_erase _ h) a.isLt hv (Memory.erase_ne m _)

end Sys2Proof.Machine
end

