-- ==== Sys2Proof/Laws/State.lean ====
section
/-! SUPPORT. One lemma for each field of the state under each update of it, the same for the shared operations that only
update, and the register file's read-after-write laws; all true by unfolding the update once. -/

namespace Sys2Proof.Machine

/-! ## The register file -/

@[simp] theorem RegFile.get_set_self (f : RegFile) (r : Reg) (v : Word) : (f.set r v).get r = v := by
  cases r <;> rfl

@[simp] theorem RegFile.get_set_of_ne (f : RegFile) {r x : Reg} (v : Word) (h : x ≠ r) : (f.set r v).get x = f.get x := by
  cases r <;> cases x <;> first | rfl | exact absurd rfl h

theorem RegFile.get_set (f : RegFile) (r x : Reg) (v : Word) :
    (f.set r v).get x = if x = r then v else f.get x := by
  by_cases h : x = r
  · subst h; simp
  · simp [h]

/-- Two register files that read alike are equal. -/
theorem RegFile.ext_get {f g : RegFile} (h : ∀ r, f.get r = g.get r) : f = g := by
  obtain ⟨a0, a1, a2, a3, a4, a5, a6, a7⟩ := f
  obtain ⟨b0, b1, b2, b3, b4, b5, b6, b7⟩ := g
  simpa [RegFile.get] using
    And.intro (h .r0) ⟨h .r1, h .r2, h .r3, h .r4, h .r5, h .r6, h .r7⟩

/-! ## Fields under updates -/

variable (s : State)

@[simp] theorem State.setReg_regs (r : Reg) (v : Word) : (s.setReg r v).regs = s.regs.set r v := rfl
@[simp] theorem State.setReg_pc (r : Reg) (v : Word) : (s.setReg r v).pc = s.pc := rfl
@[simp] theorem State.setReg_cond (r : Reg) (v : Word) : (s.setReg r v).cond = s.cond := rfl
@[simp] theorem State.setReg_mem (r : Reg) (v : Word) : (s.setReg r v).mem = s.mem := rfl
@[simp] theorem State.setReg_run (r : Reg) (v : Word) : (s.setReg r v).run = s.run := rfl
@[simp] theorem State.setReg_fault (r : Reg) (v : Word) : (s.setReg r v).fault = s.fault := rfl
@[simp] theorem State.setReg_kbd (r : Reg) (v : Word) : (s.setReg r v).kbd = s.kbd := rfl
@[simp] theorem State.setReg_out (r : Reg) (v : Word) : (s.setReg r v).out = s.out := rfl
@[simp] theorem State.setReg_held (r : Reg) (v : Word) : (s.setReg r v).held = s.held := rfl
@[simp] theorem State.setReg_arrivals (r : Reg) (v : Word) : (s.setReg r v).arrivals = s.arrivals := rfl

@[simp] theorem State.setPc_regs (v : Word) : (s.setPc v).regs = s.regs := rfl
@[simp] theorem State.setPc_pc (v : Word) : (s.setPc v).pc = v := rfl
@[simp] theorem State.setPc_cond (v : Word) : (s.setPc v).cond = s.cond := rfl
@[simp] theorem State.setPc_mem (v : Word) : (s.setPc v).mem = s.mem := rfl
@[simp] theorem State.setPc_run (v : Word) : (s.setPc v).run = s.run := rfl
@[simp] theorem State.setPc_fault (v : Word) : (s.setPc v).fault = s.fault := rfl
@[simp] theorem State.setPc_kbd (v : Word) : (s.setPc v).kbd = s.kbd := rfl
@[simp] theorem State.setPc_out (v : Word) : (s.setPc v).out = s.out := rfl
@[simp] theorem State.setPc_held (v : Word) : (s.setPc v).held = s.held := rfl
@[simp] theorem State.setPc_arrivals (v : Word) : (s.setPc v).arrivals = s.arrivals := rfl

@[simp] theorem State.setCond_regs (v : Word) : (s.setCond v).regs = s.regs := rfl
@[simp] theorem State.setCond_pc (v : Word) : (s.setCond v).pc = s.pc := rfl
@[simp] theorem State.setCond_cond (v : Word) : (s.setCond v).cond = v := rfl
@[simp] theorem State.setCond_mem (v : Word) : (s.setCond v).mem = s.mem := rfl
@[simp] theorem State.setCond_run (v : Word) : (s.setCond v).run = s.run := rfl
@[simp] theorem State.setCond_fault (v : Word) : (s.setCond v).fault = s.fault := rfl
@[simp] theorem State.setCond_kbd (v : Word) : (s.setCond v).kbd = s.kbd := rfl
@[simp] theorem State.setCond_out (v : Word) : (s.setCond v).out = s.out := rfl
@[simp] theorem State.setCond_held (v : Word) : (s.setCond v).held = s.held := rfl
@[simp] theorem State.setCond_arrivals (v : Word) : (s.setCond v).arrivals = s.arrivals := rfl

@[simp] theorem State.setMem_regs (m : Memory) : (s.setMem m).regs = s.regs := rfl
@[simp] theorem State.setMem_pc (m : Memory) : (s.setMem m).pc = s.pc := rfl
@[simp] theorem State.setMem_cond (m : Memory) : (s.setMem m).cond = s.cond := rfl
@[simp] theorem State.setMem_mem (m : Memory) : (s.setMem m).mem = m := rfl
@[simp] theorem State.setMem_run (m : Memory) : (s.setMem m).run = s.run := rfl
@[simp] theorem State.setMem_fault (m : Memory) : (s.setMem m).fault = s.fault := rfl
@[simp] theorem State.setMem_kbd (m : Memory) : (s.setMem m).kbd = s.kbd := rfl
@[simp] theorem State.setMem_out (m : Memory) : (s.setMem m).out = s.out := rfl
@[simp] theorem State.setMem_held (m : Memory) : (s.setMem m).held = s.held := rfl
@[simp] theorem State.setMem_arrivals (m : Memory) : (s.setMem m).arrivals = s.arrivals := rfl

@[simp] theorem State.setRun_regs (r : RunState) : (s.setRun r).regs = s.regs := rfl
@[simp] theorem State.setRun_pc (r : RunState) : (s.setRun r).pc = s.pc := rfl
@[simp] theorem State.setRun_cond (r : RunState) : (s.setRun r).cond = s.cond := rfl
@[simp] theorem State.setRun_mem (r : RunState) : (s.setRun r).mem = s.mem := rfl
@[simp] theorem State.setRun_run (r : RunState) : (s.setRun r).run = r := rfl
@[simp] theorem State.setRun_fault (r : RunState) : (s.setRun r).fault = s.fault := rfl
@[simp] theorem State.setRun_kbd (r : RunState) : (s.setRun r).kbd = s.kbd := rfl
@[simp] theorem State.setRun_out (r : RunState) : (s.setRun r).out = s.out := rfl
@[simp] theorem State.setRun_held (r : RunState) : (s.setRun r).held = s.held := rfl
@[simp] theorem State.setRun_arrivals (r : RunState) : (s.setRun r).arrivals = s.arrivals := rfl

@[simp] theorem State.setFault_regs (f : Option FaultRecord) : (s.setFault f).regs = s.regs := rfl
@[simp] theorem State.setFault_pc (f : Option FaultRecord) : (s.setFault f).pc = s.pc := rfl
@[simp] theorem State.setFault_cond (f : Option FaultRecord) : (s.setFault f).cond = s.cond := rfl
@[simp] theorem State.setFault_mem (f : Option FaultRecord) : (s.setFault f).mem = s.mem := rfl
@[simp] theorem State.setFault_run (f : Option FaultRecord) : (s.setFault f).run = s.run := rfl
@[simp] theorem State.setFault_fault (f : Option FaultRecord) : (s.setFault f).fault = f := rfl
@[simp] theorem State.setFault_kbd (f : Option FaultRecord) : (s.setFault f).kbd = s.kbd := rfl
@[simp] theorem State.setFault_out (f : Option FaultRecord) : (s.setFault f).out = s.out := rfl
@[simp] theorem State.setFault_held (f : Option FaultRecord) : (s.setFault f).held = s.held := rfl
@[simp] theorem State.setFault_arrivals (f : Option FaultRecord) : (s.setFault f).arrivals = s.arrivals := rfl

@[simp] theorem State.setKbd_regs (k : List Byte) : (s.setKbd k).regs = s.regs := rfl
@[simp] theorem State.setKbd_pc (k : List Byte) : (s.setKbd k).pc = s.pc := rfl
@[simp] theorem State.setKbd_cond (k : List Byte) : (s.setKbd k).cond = s.cond := rfl
@[simp] theorem State.setKbd_mem (k : List Byte) : (s.setKbd k).mem = s.mem := rfl
@[simp] theorem State.setKbd_run (k : List Byte) : (s.setKbd k).run = s.run := rfl
@[simp] theorem State.setKbd_fault (k : List Byte) : (s.setKbd k).fault = s.fault := rfl
@[simp] theorem State.setKbd_kbd (k : List Byte) : (s.setKbd k).kbd = k := rfl
@[simp] theorem State.setKbd_out (k : List Byte) : (s.setKbd k).out = s.out := rfl
@[simp] theorem State.setKbd_held (k : List Byte) : (s.setKbd k).held = s.held := rfl
@[simp] theorem State.setKbd_arrivals (k : List Byte) : (s.setKbd k).arrivals = s.arrivals := rfl

@[simp] theorem State.setOut_regs (o : List Byte) : (s.setOut o).regs = s.regs := rfl
@[simp] theorem State.setOut_pc (o : List Byte) : (s.setOut o).pc = s.pc := rfl
@[simp] theorem State.setOut_cond (o : List Byte) : (s.setOut o).cond = s.cond := rfl
@[simp] theorem State.setOut_mem (o : List Byte) : (s.setOut o).mem = s.mem := rfl
@[simp] theorem State.setOut_run (o : List Byte) : (s.setOut o).run = s.run := rfl
@[simp] theorem State.setOut_fault (o : List Byte) : (s.setOut o).fault = s.fault := rfl
@[simp] theorem State.setOut_kbd (o : List Byte) : (s.setOut o).kbd = s.kbd := rfl
@[simp] theorem State.setOut_out (o : List Byte) : (s.setOut o).out = o := rfl
@[simp] theorem State.setOut_held (o : List Byte) : (s.setOut o).held = s.held := rfl
@[simp] theorem State.setOut_arrivals (o : List Byte) : (s.setOut o).arrivals = s.arrivals := rfl

@[simp] theorem State.setHeld_regs (h : Option Held) : (s.setHeld h).regs = s.regs := rfl
@[simp] theorem State.setHeld_pc (h : Option Held) : (s.setHeld h).pc = s.pc := rfl
@[simp] theorem State.setHeld_cond (h : Option Held) : (s.setHeld h).cond = s.cond := rfl
@[simp] theorem State.setHeld_mem (h : Option Held) : (s.setHeld h).mem = s.mem := rfl
@[simp] theorem State.setHeld_run (h : Option Held) : (s.setHeld h).run = s.run := rfl
@[simp] theorem State.setHeld_fault (h : Option Held) : (s.setHeld h).fault = s.fault := rfl
@[simp] theorem State.setHeld_kbd (h : Option Held) : (s.setHeld h).kbd = s.kbd := rfl
@[simp] theorem State.setHeld_out (h : Option Held) : (s.setHeld h).out = s.out := rfl
@[simp] theorem State.setHeld_held (h : Option Held) : (s.setHeld h).held = h := rfl
@[simp] theorem State.setHeld_arrivals (h : Option Held) : (s.setHeld h).arrivals = s.arrivals := rfl

/-! ## Registers under updates -/

@[simp] theorem State.reg_setReg_self (r : Reg) (v : Word) : (s.setReg r v).reg r = v := by simp [State.reg]
@[simp] theorem State.reg_setReg_of_ne {r x : Reg} (v : Word) (h : x ≠ r) : (s.setReg r v).reg x = s.reg x := by
  simp [State.reg, h]
theorem State.reg_setReg (r x : Reg) (v : Word) : (s.setReg r v).reg x = if x = r then v else s.reg x := by
  simp [State.reg, RegFile.get_set]
@[simp] theorem State.reg_setPc (v : Word) (x : Reg) : (s.setPc v).reg x = s.reg x := rfl
@[simp] theorem State.reg_setCond (v : Word) (x : Reg) : (s.setCond v).reg x = s.reg x := rfl
@[simp] theorem State.reg_setMem (m : Memory) (x : Reg) : (s.setMem m).reg x = s.reg x := rfl
@[simp] theorem State.reg_setRun (r : RunState) (x : Reg) : (s.setRun r).reg x = s.reg x := rfl
@[simp] theorem State.reg_setFault (f : Option FaultRecord) (x : Reg) : (s.setFault f).reg x = s.reg x := rfl
@[simp] theorem State.reg_setKbd (k : List Byte) (x : Reg) : (s.setKbd k).reg x = s.reg x := rfl
@[simp] theorem State.reg_setOut (o : List Byte) (x : Reg) : (s.setOut o).reg x = s.reg x := rfl
@[simp] theorem State.reg_setHeld (h : Option Held) (x : Reg) : (s.setHeld h).reg x = s.reg x := rfl

/-! ## Shared operations that only update -/

@[simp] theorem State.updateFlags_regs (r : Reg) : (s.updateFlags r).regs = s.regs := rfl
@[simp] theorem State.updateFlags_pc (r : Reg) : (s.updateFlags r).pc = s.pc := rfl
@[simp] theorem State.updateFlags_cond (r : Reg) : (s.updateFlags r).cond = condOf (s.reg r) := rfl
@[simp] theorem State.updateFlags_mem (r : Reg) : (s.updateFlags r).mem = s.mem := rfl
@[simp] theorem State.updateFlags_run (r : Reg) : (s.updateFlags r).run = s.run := rfl
@[simp] theorem State.updateFlags_fault (r : Reg) : (s.updateFlags r).fault = s.fault := rfl
@[simp] theorem State.updateFlags_kbd (r : Reg) : (s.updateFlags r).kbd = s.kbd := rfl
@[simp] theorem State.updateFlags_out (r : Reg) : (s.updateFlags r).out = s.out := rfl
@[simp] theorem State.updateFlags_held (r : Reg) : (s.updateFlags r).held = s.held := rfl
@[simp] theorem State.updateFlags_arrivals (r : Reg) : (s.updateFlags r).arrivals = s.arrivals := rfl
@[simp] theorem State.reg_updateFlags (r : Reg) (x : Reg) : (s.updateFlags r).reg x = s.reg x := rfl

@[simp] theorem State.memWrite_regs (a v : Word) : (s.memWrite a v).regs = s.regs := rfl
@[simp] theorem State.memWrite_pc (a v : Word) : (s.memWrite a v).pc = s.pc := rfl
@[simp] theorem State.memWrite_cond (a v : Word) : (s.memWrite a v).cond = s.cond := rfl
@[simp] theorem State.memWrite_mem (a v : Word) : (s.memWrite a v).mem = s.mem.write a v := rfl
@[simp] theorem State.memWrite_run (a v : Word) : (s.memWrite a v).run = s.run := rfl
@[simp] theorem State.memWrite_fault (a v : Word) : (s.memWrite a v).fault = s.fault := rfl
@[simp] theorem State.memWrite_kbd (a v : Word) : (s.memWrite a v).kbd = s.kbd := rfl
@[simp] theorem State.memWrite_out (a v : Word) : (s.memWrite a v).out = s.out := rfl
@[simp] theorem State.memWrite_held (a v : Word) : (s.memWrite a v).held = s.held := rfl
@[simp] theorem State.memWrite_arrivals (a v : Word) : (s.memWrite a v).arrivals = s.arrivals := rfl
@[simp] theorem State.reg_memWrite (a v : Word) (x : Reg) : (s.memWrite a v).reg x = s.reg x := rfl

@[simp] theorem State.writeChars_regs (bs : List Byte) : (s.writeChars bs).regs = s.regs := rfl
@[simp] theorem State.writeChars_pc (bs : List Byte) : (s.writeChars bs).pc = s.pc := rfl
@[simp] theorem State.writeChars_cond (bs : List Byte) : (s.writeChars bs).cond = s.cond := rfl
@[simp] theorem State.writeChars_mem (bs : List Byte) : (s.writeChars bs).mem = s.mem := rfl
@[simp] theorem State.writeChars_run (bs : List Byte) : (s.writeChars bs).run = s.run := rfl
@[simp] theorem State.writeChars_fault (bs : List Byte) : (s.writeChars bs).fault = s.fault := rfl
@[simp] theorem State.writeChars_kbd (bs : List Byte) : (s.writeChars bs).kbd = s.kbd := rfl
@[simp] theorem State.writeChars_out (bs : List Byte) : (s.writeChars bs).out = s.out ++ bs := rfl
@[simp] theorem State.writeChars_held (bs : List Byte) : (s.writeChars bs).held = s.held := rfl
@[simp] theorem State.writeChars_arrivals (bs : List Byte) : (s.writeChars bs).arrivals = s.arrivals := rfl
@[simp] theorem State.reg_writeChars (bs : List Byte) (x : Reg) : (s.writeChars bs).reg x = s.reg x := rfl

@[simp] theorem State.writeChar_regs (b : Byte) : (s.writeChar b).regs = s.regs := rfl
@[simp] theorem State.writeChar_pc (b : Byte) : (s.writeChar b).pc = s.pc := rfl
@[simp] theorem State.writeChar_cond (b : Byte) : (s.writeChar b).cond = s.cond := rfl
@[simp] theorem State.writeChar_mem (b : Byte) : (s.writeChar b).mem = s.mem := rfl
@[simp] theorem State.writeChar_run (b : Byte) : (s.writeChar b).run = s.run := rfl
@[simp] theorem State.writeChar_fault (b : Byte) : (s.writeChar b).fault = s.fault := rfl
@[simp] theorem State.writeChar_kbd (b : Byte) : (s.writeChar b).kbd = s.kbd := rfl
@[simp] theorem State.writeChar_out (b : Byte) : (s.writeChar b).out = s.out ++ [b] := rfl
@[simp] theorem State.writeChar_held (b : Byte) : (s.writeChar b).held = s.held := rfl
@[simp] theorem State.writeChar_arrivals (b : Byte) : (s.writeChar b).arrivals = s.arrivals := rfl
@[simp] theorem State.reg_writeChar (b : Byte) (x : Reg) : (s.writeChar b).reg x = s.reg x := rfl

@[simp] theorem State.link_regs : s.link.regs = s.regs.set .r7 s.pc := rfl
@[simp] theorem State.link_pc : s.link.pc = s.pc := rfl
@[simp] theorem State.link_cond : s.link.cond = s.cond := rfl
@[simp] theorem State.link_mem : s.link.mem = s.mem := rfl
@[simp] theorem State.link_run : s.link.run = s.run := rfl
@[simp] theorem State.link_fault : s.link.fault = s.fault := rfl
@[simp] theorem State.link_kbd : s.link.kbd = s.kbd := rfl
@[simp] theorem State.link_out : s.link.out = s.out := rfl
@[simp] theorem State.link_held : s.link.held = s.held := rfl
@[simp] theorem State.link_arrivals : s.link.arrivals = s.arrivals := rfl

@[simp] theorem Arrivals.next_listed (bs : List Byte) (rest : List (List Byte)) (src : Source) :
    Arrivals.next ⟨bs :: rest, src⟩ = bs := rfl
@[simp] theorem Arrivals.next_silent : Arrivals.next ⟨[], .silent⟩ = [] := rfl
@[simp] theorem Arrivals.next_free (stream tick : Nat) :
    Arrivals.next ⟨[], .free stream tick⟩ = Config.freeArrivals stream tick := rfl
@[simp] theorem Arrivals.later_listed (bs : List Byte) (rest : List (List Byte)) (src : Source) :
    Arrivals.later ⟨bs :: rest, src⟩ = ⟨rest, src⟩ := rfl
@[simp] theorem Arrivals.later_silent : Arrivals.later ⟨[], .silent⟩ = ⟨[], .silent⟩ := rfl
@[simp] theorem Arrivals.later_free (stream tick : Nat) :
    Arrivals.later ⟨[], .free stream tick⟩ = ⟨[], .free stream (tick + 1)⟩ := rfl

@[simp] theorem State.arrive_regs : s.arrive.regs = s.regs := rfl
@[simp] theorem State.arrive_pc : s.arrive.pc = s.pc := rfl
@[simp] theorem State.arrive_cond : s.arrive.cond = s.cond := rfl
@[simp] theorem State.arrive_mem : s.arrive.mem = s.mem := rfl
@[simp] theorem State.arrive_run : s.arrive.run = s.run := rfl
@[simp] theorem State.arrive_fault : s.arrive.fault = s.fault := rfl
@[simp] theorem State.arrive_kbd : s.arrive.kbd = s.kbd ++ s.arrivals.next := rfl
@[simp] theorem State.arrive_out : s.arrive.out = s.out := rfl
@[simp] theorem State.arrive_held : s.arrive.held = s.held := rfl
@[simp] theorem State.arrive_arrivals : s.arrive.arrivals = s.arrivals.later := rfl

@[simp] theorem State.raise_regs (k : FaultKind) : (s.raise k).regs = s.regs := rfl
@[simp] theorem State.raise_pc (k : FaultKind) : (s.raise k).pc = s.pc := rfl
@[simp] theorem State.raise_cond (k : FaultKind) : (s.raise k).cond = s.cond := rfl
@[simp] theorem State.raise_mem (k : FaultKind) : (s.raise k).mem = s.mem := rfl
@[simp] theorem State.raise_run (k : FaultKind) : (s.raise k).run = .faulted := rfl
@[simp] theorem State.raise_fault (k : FaultKind) : (s.raise k).fault = some ⟨k, s.pc - 1⟩ := rfl
@[simp] theorem State.raise_kbd (k : FaultKind) : (s.raise k).kbd = s.kbd := rfl
@[simp] theorem State.raise_out (k : FaultKind) : (s.raise k).out = s.out := rfl
@[simp] theorem State.raise_held (k : FaultKind) : (s.raise k).held = s.held := rfl
@[simp] theorem State.raise_arrivals (k : FaultKind) : (s.raise k).arrivals = s.arrivals := rfl
@[simp] theorem State.reg_raise (k : FaultKind) (x : Reg) : (s.raise k).reg x = s.reg x := rfl

@[simp] theorem State.define_regs (r : Reg) (v : Word) : (s.define r v).regs = s.regs.set r v := rfl
@[simp] theorem State.define_pc (r : Reg) (v : Word) : (s.define r v).pc = s.pc := rfl
@[simp] theorem State.define_mem (r : Reg) (v : Word) : (s.define r v).mem = s.mem := rfl
@[simp] theorem State.define_run (r : Reg) (v : Word) : (s.define r v).run = s.run := rfl
@[simp] theorem State.define_fault (r : Reg) (v : Word) : (s.define r v).fault = s.fault := rfl
@[simp] theorem State.define_kbd (r : Reg) (v : Word) : (s.define r v).kbd = s.kbd := rfl
@[simp] theorem State.define_out (r : Reg) (v : Word) : (s.define r v).out = s.out := rfl
@[simp] theorem State.define_held (r : Reg) (v : Word) : (s.define r v).held = s.held := rfl
@[simp] theorem State.define_arrivals (r : Reg) (v : Word) : (s.define r v).arrivals = s.arrivals := rfl

@[simp] theorem State.reg_arrive (x : Reg) : s.arrive.reg x = s.reg x := rfl
@[simp] theorem State.define_cond (r : Reg) (v : Word) : (s.define r v).cond = condOf v := by simp [State.define]
@[simp] theorem State.reg_define_self (r : Reg) (v : Word) : (s.define r v).reg r = v := by simp [State.define]
@[simp] theorem State.reg_define_of_ne {r x : Reg} (v : Word) (h : x ≠ r) : (s.define r v).reg x = s.reg x := by
  simp [State.define, h]
@[simp] theorem State.reg_link_r7 : s.link.reg .r7 = s.pc := by simp [State.link]
@[simp] theorem State.reg_link_of_ne {x : Reg} (h : x ≠ .r7) : s.link.reg x = s.reg x := by simp [State.link, h]
@[simp] theorem State.memPlain_eq (a : Word) : s.memPlain a = s.mem.read a := rfl

end Sys2Proof.Machine
end

