-- ==== Sys2Proof/Laws/Ops.lean ====
section
/-! SUPPORT. For each shared operation, what it can do, said once: the flag class of a Word, sign extension, the terminal
port, the intercepted read, the fetch, and the routines of TRAP from their read or walk on. -/

namespace Sys2Proof.Machine

/-! ## Flags -/

theorem condOf_legal (v : Word) : condOf v = flPos ∨ condOf v = flZro ∨ condOf v = flNeg := by
  unfold condOf
  split
  · simp
  · split <;> simp

theorem condOf_zero {v : Word} (h : v.toNat = 0) : condOf v = flZro := by
  have : v = 0x0000#16 := BitVec.eq_of_toNat_eq (by simpa using h)
  simp [condOf, this]

theorem condOf_pos {v : Word} (h₁ : 1 ≤ v.toNat) (h₂ : v.toNat ≤ 0x7FFF) : condOf v = flPos := by
  have h0 : v ≠ 0x0000#16 := fun e => by simp [e] at h₁
  have hm : v.getLsbD 15 = false := by
    rw [← BitVec.msb_eq_getLsbD_last v, BitVec.msb_eq_decide]
    simp
    omega
  unfold condOf
  rw [if_neg h0, hm]
  rfl

theorem condOf_neg {v : Word} (h : 0x8000 ≤ v.toNat) : condOf v = flNeg := by
  have h0 : v ≠ 0x0000#16 := fun e => by simp [e] at h
  have hm : v.getLsbD 15 = true := by
    rw [← BitVec.msb_eq_getLsbD_last v, BitVec.msb_eq_decide]
    simpa using h
  unfold condOf
  rw [if_neg h0, hm]
  rfl

/-! ## The terminal port -/

theorem State.readChar_nil {s : State} (h : s.kbd = []) : s.readChar = none := by simp [State.readChar, h]

theorem State.readChar_cons {s : State} {b : Byte} {rest : List Byte} (h : s.kbd = b :: rest) :
    s.readChar = some (b, s.setKbd rest) := by simp [State.readChar, h]

/-! ## The intercepted read -/

theorem State.poll_nil {s : State} (h : s.kbd = []) : s.poll = s.memWrite kbsr 0x0000#16 := by
  simp [State.poll, State.readChar_nil h]

theorem State.poll_cons {s : State} {b : Byte} {rest : List Byte} (h : s.kbd = b :: rest) :
    s.poll = ((s.setKbd rest).memWrite kbsr kbsrReady).memWrite kbdr (zext8 b) := by
  simp [State.poll, State.readChar_cons h]

/-- A poll touches memory and the keyboard queue, and nothing else. -/
theorem State.poll_frame (s : State) : s.poll = { s with mem := s.poll.mem, kbd := s.poll.kbd } := by
  cases h : s.kbd with
  | nil => rw [State.poll_nil h]; rfl
  | cons b rest => rw [State.poll_cons h]; rfl

@[simp] theorem State.poll_regs (s : State) : s.poll.regs = s.regs := by
  have h := congrArg State.regs s.poll_frame; exact h
@[simp] theorem State.poll_pc (s : State) : s.poll.pc = s.pc := by
  have h := congrArg State.pc s.poll_frame; exact h
@[simp] theorem State.poll_cond (s : State) : s.poll.cond = s.cond := by
  have h := congrArg State.cond s.poll_frame; exact h
@[simp] theorem State.poll_run (s : State) : s.poll.run = s.run := by
  have h := congrArg State.run s.poll_frame; exact h
@[simp] theorem State.poll_fault (s : State) : s.poll.fault = s.fault := by
  have h := congrArg State.fault s.poll_frame; exact h
@[simp] theorem State.poll_out (s : State) : s.poll.out = s.out := by
  have h := congrArg State.out s.poll_frame; exact h
@[simp] theorem State.poll_held (s : State) : s.poll.held = s.held := by
  have h := congrArg State.held s.poll_frame; exact h
@[simp] theorem State.poll_arrivals (s : State) : s.poll.arrivals = s.arrivals := by
  have h := congrArg State.arrivals s.poll_frame; exact h
@[simp] theorem State.reg_poll (s : State) (x : Reg) : s.poll.reg x = s.reg x := by simp [State.reg]

/-- A poll takes at most one byte, the head of the queue. -/
theorem State.poll_kbd (s : State) : s.poll.kbd = s.kbd.tail := by
  cases h : s.kbd with
  | nil => simpa [State.poll_nil h] using h
  | cons b rest => simp [State.poll_cons h]

theorem State.wf_poll {s : State} (h : s.mem.wf = true) : s.poll.mem.wf = true := by
  cases hk : s.kbd with
  | nil => simp [State.poll_nil hk, Memory.wf_write, h]
  | cons b rest => simp [State.poll_cons hk, Memory.wf_write, h]

/-- A poll writes no cell but `KBSR` and `KBDR`. -/
theorem State.read_poll_of_ne (s : State) {a : Word} (h₁ : a ≠ kbsr) (h₂ : a ≠ kbdr) :
    s.poll.mem.read a = s.mem.read a := by
  cases h : s.kbd with
  | nil => simp [State.poll_nil h, Memory.read_write_of_ne, h₁]
  | cons b rest => simp [State.poll_cons h, Memory.read_write_of_ne, h₁, h₂]

/-- At every address but `KBSR`, `MemRead` is the plain read. -/
theorem State.memRead_of_ne (s : State) {a : Word} (h : a ≠ kbsr) : s.memRead a = (s.mem.read a, s) := by
  simp [State.memRead, h]

/-- At `KBSR`, `MemRead` polls and returns the cell as the poll left it. -/
theorem State.memRead_kbsr (s : State) : s.memRead kbsr = (s.poll.mem.read kbsr, s.poll) := by
  simp [State.memRead]

/-- All that `MemRead` can do to the state: nothing, or one poll. -/
theorem State.memRead_state (s : State) (a : Word) :
    (s.memRead a).2 = if a = kbsr then s.poll else s := by
  unfold State.memRead
  split <;> rfl

/-- `MemRead` touches memory and the keyboard queue, and nothing else. -/
theorem State.memRead_frame (s : State) (a : Word) :
    (s.memRead a).2 = { s with mem := (s.memRead a).2.mem, kbd := (s.memRead a).2.kbd } := by
  rw [State.memRead_state]
  split
  · exact s.poll_frame
  · rfl

@[simp] theorem State.memRead_regs (s : State) (a : Word) : (s.memRead a).2.regs = s.regs := by
  have h := congrArg State.regs (s.memRead_frame a); exact h
@[simp] theorem State.memRead_pc (s : State) (a : Word) : (s.memRead a).2.pc = s.pc := by
  have h := congrArg State.pc (s.memRead_frame a); exact h
@[simp] theorem State.memRead_cond (s : State) (a : Word) : (s.memRead a).2.cond = s.cond := by
  have h := congrArg State.cond (s.memRead_frame a); exact h
@[simp] theorem State.memRead_run (s : State) (a : Word) : (s.memRead a).2.run = s.run := by
  have h := congrArg State.run (s.memRead_frame a); exact h
@[simp] theorem State.memRead_fault (s : State) (a : Word) : (s.memRead a).2.fault = s.fault := by
  have h := congrArg State.fault (s.memRead_frame a); exact h
@[simp] theorem State.memRead_out (s : State) (a : Word) : (s.memRead a).2.out = s.out := by
  have h := congrArg State.out (s.memRead_frame a); exact h
@[simp] theorem State.memRead_held (s : State) (a : Word) : (s.memRead a).2.held = s.held := by
  have h := congrArg State.held (s.memRead_frame a); exact h
@[simp] theorem State.memRead_arrivals (s : State) (a : Word) : (s.memRead a).2.arrivals = s.arrivals := by
  have h := congrArg State.arrivals (s.memRead_frame a); exact h
@[simp] theorem State.reg_memRead (s : State) (a : Word) (x : Reg) : (s.memRead a).2.reg x = s.reg x := by
  simp [State.reg]

theorem State.wf_memRead {s : State} (a : Word) (h : s.mem.wf = true) : (s.memRead a).2.mem.wf = true := by
  rw [State.memRead_state]
  split
  · exact State.wf_poll h
  · exact h

/-- The queue after `MemRead` is the queue before it, or its tail. -/
theorem State.memRead_kbd (s : State) (a : Word) :
    (s.memRead a).2.kbd = if a = kbsr then s.kbd.tail else s.kbd := by
  rw [State.memRead_state]
  split
  · exact State.poll_kbd s
  · rfl

/-! ## The fetch -/

@[simp] theorem State.fetch_word (s : State) : s.fetch.1 = (s.memRead s.pc).1 := rfl
@[simp] theorem State.fetch_regs (s : State) : s.fetch.2.regs = s.regs := by simp [State.fetch]
@[simp] theorem State.fetch_pc (s : State) : s.fetch.2.pc = s.pc + 1 := by simp [State.fetch]
@[simp] theorem State.fetch_cond (s : State) : s.fetch.2.cond = s.cond := by simp [State.fetch]
@[simp] theorem State.fetch_mem (s : State) : s.fetch.2.mem = (s.memRead s.pc).2.mem := rfl
@[simp] theorem State.fetch_run (s : State) : s.fetch.2.run = s.run := by simp [State.fetch]
@[simp] theorem State.fetch_fault (s : State) : s.fetch.2.fault = s.fault := by simp [State.fetch]
@[simp] theorem State.fetch_kbd (s : State) : s.fetch.2.kbd = (s.memRead s.pc).2.kbd := rfl
@[simp] theorem State.fetch_out (s : State) : s.fetch.2.out = s.out := by simp [State.fetch]
@[simp] theorem State.fetch_held (s : State) : s.fetch.2.held = s.held := by simp [State.fetch]
@[simp] theorem State.fetch_arrivals (s : State) : s.fetch.2.arrivals = s.arrivals := by simp [State.fetch]
@[simp] theorem State.reg_fetch (s : State) (x : Reg) : s.fetch.2.reg x = s.reg x := by simp [State.reg]

/-! ## The routines of TRAP from their read or walk on -/

theorem State.getcRead_nil {s : State} (h : s.kbd = []) : s.getcRead = s.setHeld (some .getc) := by
  simp [State.getcRead, State.readChar_nil h]

theorem State.getcRead_cons {s : State} {b : Byte} {rest : List Byte} (h : s.kbd = b :: rest) :
    s.getcRead = ((s.setKbd rest).define .r0 (zext8 b)).setHeld none := by
  simp [State.getcRead, State.readChar_cons h]

theorem State.inRead_nil {s : State} (h : s.kbd = []) : s.inRead = s.setHeld (some .inChar) := by
  simp [State.inRead, State.readChar_nil h]

theorem State.inRead_cons {s : State} {b : Byte} {rest : List Byte} (h : s.kbd = b :: rest) :
    s.inRead = (((s.setKbd rest).writeChar b).define .r0 (zext8 b)).setHeld none := by
  simp [State.inRead, State.readChar_cons h]

/-- One step of a walk: the zero word ends it. -/
theorem State.walk_zero (s : State) (n : Nat) {a : Word} (h : s.mem.read a = 0x0000#16) :
    s.walk (n + 1) a = ([], true) := by simp [State.walk, h]

/-- One step of a walk: any other word is met and the walk goes on at the next address. -/
theorem State.walk_succ (s : State) (n : Nat) {a : Word} (h : s.mem.read a ≠ 0x0000#16) :
    s.walk (n + 1) a = (s.mem.read a :: (s.walk n (a + 1)).1, (s.walk n (a + 1)).2) := by
  simp [State.walk, h]

end Sys2Proof.Machine
end

