-- ==== Sys2Proof/Laws/PerInstr.lean ====
section
/-! SUPPORT. A law of the encoder for each constructor: the opcode field, bits 15 to 12, of an instruction's word is that
of its row of the opcode table (30_encoding.md R82, R84). -/

namespace Sys2Proof.Laws.OpcodeField

def Statement (i : Instr) : Prop :=
  (encode i).extractLsb' 12 4 = i.row.value.extractLsb' 12 4

theorem br (cond : BitVec 3) (pcoffset9 : BitVec 9) : Statement (.br cond pcoffset9) :=
  (fields_4_3_9_op 0b0000#4 cond pcoffset9).trans (by simp [Instr.row])

theorem addReg (dr sr1 sr2 : Reg) : Statement (.addReg dr sr1 sr2) :=
  (fields_4_3_3_1_2_3_op 0b0001#4 dr.toBits sr1.toBits 0b0#1 0b00#2 sr2.toBits).trans (by simp [Instr.row])

theorem addImm (dr sr1 : Reg) (imm5 : BitVec 5) : Statement (.addImm dr sr1 imm5) :=
  (fields_4_3_3_1_5_op 0b0001#4 dr.toBits sr1.toBits 0b1#1 imm5).trans (by simp [Instr.row])

theorem ld (dr : Reg) (pcoffset9 : BitVec 9) : Statement (.ld dr pcoffset9) :=
  (fields_4_3_9_op 0b0010#4 dr.toBits pcoffset9).trans (by simp [Instr.row])

theorem st (sr : Reg) (pcoffset9 : BitVec 9) : Statement (.st sr pcoffset9) :=
  (fields_4_3_9_op 0b0011#4 sr.toBits pcoffset9).trans (by simp [Instr.row])

theorem jsr (pcoffset11 : BitVec 11) : Statement (.jsr pcoffset11) :=
  (fields_4_1_11_op 0b0100#4 0b1#1 pcoffset11).trans (by simp [Instr.row])

theorem jsrr (baseR : Reg) : Statement (.jsrr baseR) :=
  (fields_4_1_2_3_6_op 0b0100#4 0b0#1 0b00#2 baseR.toBits 0b000000#6).trans (by simp [Instr.row])

theorem andReg (dr sr1 sr2 : Reg) : Statement (.andReg dr sr1 sr2) :=
  (fields_4_3_3_1_2_3_op 0b0101#4 dr.toBits sr1.toBits 0b0#1 0b00#2 sr2.toBits).trans (by simp [Instr.row])

theorem andImm (dr sr1 : Reg) (imm5 : BitVec 5) : Statement (.andImm dr sr1 imm5) :=
  (fields_4_3_3_1_5_op 0b0101#4 dr.toBits sr1.toBits 0b1#1 imm5).trans (by simp [Instr.row])

theorem ldr (dr baseR : Reg) (offset6 : BitVec 6) : Statement (.ldr dr baseR offset6) :=
  (fields_4_3_3_6_op 0b0110#4 dr.toBits baseR.toBits offset6).trans (by simp [Instr.row])

theorem str (sr baseR : Reg) (offset6 : BitVec 6) : Statement (.str sr baseR offset6) :=
  (fields_4_3_3_6_op 0b0111#4 sr.toBits baseR.toBits offset6).trans (by simp [Instr.row])

theorem rti : Statement .rti :=
  (fields_4_12_op 0b1000#4 0b000000000000#12).trans (by simp [Instr.row])

theorem notReg (dr sr : Reg) : Statement (.notReg dr sr) :=
  (fields_4_3_3_6_op 0b1001#4 dr.toBits sr.toBits 0b111111#6).trans (by simp [Instr.row])

theorem ldi (dr : Reg) (pcoffset9 : BitVec 9) : Statement (.ldi dr pcoffset9) :=
  (fields_4_3_9_op 0b1010#4 dr.toBits pcoffset9).trans (by simp [Instr.row])

theorem sti (sr : Reg) (pcoffset9 : BitVec 9) : Statement (.sti sr pcoffset9) :=
  (fields_4_3_9_op 0b1011#4 sr.toBits pcoffset9).trans (by simp [Instr.row])

theorem jmp (baseR : Reg) : Statement (.jmp baseR) :=
  (fields_4_3_3_6_op 0b1100#4 0b000#3 baseR.toBits 0b000000#6).trans (by simp [Instr.row])

theorem res : Statement .res :=
  (fields_4_12_op 0b1101#4 0b000000000000#12).trans (by simp [Instr.row])

theorem lea (dr : Reg) (pcoffset9 : BitVec 9) : Statement (.lea dr pcoffset9) :=
  (fields_4_3_9_op 0b1110#4 dr.toBits pcoffset9).trans (by simp [Instr.row])

theorem trapGetc : Statement .trapGetc :=
  (fields_4_4_8_op 0b1111#4 0b0000#4 0x20#8).trans (by simp [Instr.row])

theorem trapOut : Statement .trapOut :=
  (fields_4_4_8_op 0b1111#4 0b0000#4 0x21#8).trans (by simp [Instr.row])

theorem trapPuts : Statement .trapPuts :=
  (fields_4_4_8_op 0b1111#4 0b0000#4 0x22#8).trans (by simp [Instr.row])

theorem trapIn : Statement .trapIn :=
  (fields_4_4_8_op 0b1111#4 0b0000#4 0x23#8).trans (by simp [Instr.row])

theorem trapPutsp : Statement .trapPutsp :=
  (fields_4_4_8_op 0b1111#4 0b0000#4 0x24#8).trans (by simp [Instr.row])

theorem trapHalt : Statement .trapHalt :=
  (fields_4_4_8_op 0b1111#4 0b0000#4 0x25#8).trans (by simp [Instr.row])

theorem trap (trapvect8 : BitVec 8) : Statement (.trap trapvect8) :=
  (fields_4_4_8_op 0b1111#4 0b0000#4 trapvect8).trans (by simp [Instr.row, opcodeRowFallback])

end Sys2Proof.Laws.OpcodeField
end

