-- ==== Sys2Proof/Laws/Walk.lean ====
section
/-! SUPPORT. What the string walk of PUTS and PUTSP meets (43_trap.md R163, R165): a string up to its zero word; and,
once round memory, an end exactly when some cell is zero. -/

namespace Sys2Proof.Machine

theorem add_ofNat_succ (a : Word) (k : Nat) : a + BitVec.ofNat 16 (k + 1) = (a + 1) + BitVec.ofNat 16 k := by
  rw [BitVec.ofNat_add, BitVec.add_comm (BitVec.ofNat 16 k), ← BitVec.add_assoc]
  rfl

/-- A walk with enough fuel meets exactly the nonzero words before the first zero word. -/
theorem State.walk_string (s : State) (ws : List Word) (a : Word) {n : Nat} (hn : ws.length < n)
    (hw : ∀ (k : Nat) (w : Word), ws[k]? = some w → w ≠ 0x0000#16 ∧ s.mem.read (a + BitVec.ofNat 16 k) = w)
    (h0 : s.mem.read (a + BitVec.ofNat 16 ws.length) = 0x0000#16) : s.walk n a = (ws, true) := by
  induction ws generalizing a n with
  | nil =>
    obtain ⟨n, rfl⟩ := Nat.exists_eq_succ_of_ne_zero (show n ≠ 0 by simp at hn; omega)
    exact s.walk_zero n (by simpa using h0)
  | cons w ws ih =>
    obtain ⟨n, rfl⟩ := Nat.exists_eq_succ_of_ne_zero (show n ≠ 0 by omega)
    obtain ⟨hne, hr⟩ := hw 0 w rfl
    have hr : s.mem.read a = w := by simpa using hr
    have hrest : s.walk n (a + 1) = (ws, true) := by
      refine ih (a + 1) (by simpa using hn) (fun k v hk => ?_) ?_
      · rw [← add_ofNat_succ]
        exact hw (k + 1) v (by simpa using hk)
      · rw [← add_ofNat_succ]
        exact h0
    rw [s.walk_succ n (by rw [hr]; exact hne), hrest, hr]

/-- A walk that has a zero word ahead within its fuel ends. -/
theorem State.walk_ends (s : State) (k : Nat) (a : Word) {n : Nat} (hk : k < n)
    (h0 : s.mem.read (a + BitVec.ofNat 16 k) = 0x0000#16) : (s.walk n a).2 = true := by
  induction k generalizing a n with
  | zero =>
    obtain ⟨n, rfl⟩ := Nat.exists_eq_succ_of_ne_zero (show n ≠ 0 by omega)
    rw [s.walk_zero n (by simpa using h0)]
  | succ k ih =>
    obtain ⟨n, rfl⟩ := Nat.exists_eq_succ_of_ne_zero (show n ≠ 0 by omega)
    by_cases ha : s.mem.read a = 0x0000#16
    · rw [s.walk_zero n ha]
    · rw [s.walk_succ n ha]
      exact ih (a + 1) (by omega) (by rw [← add_ofNat_succ]; exact h0)

/-- Once round memory the walk ends if any cell is zero: from `a`, every address is less than 65536 words ahead. -/
theorem State.walk_round_ends (s : State) (a b : Word) (h : s.mem.read b = 0x0000#16) :
    (s.walk memoryWords a).2 = true := by
  refine s.walk_ends (b - a).toNat a (b - a).isLt ?_
  rw [BitVec.ofNat_toNat, BitVec.setWidth_eq, show a + (b - a) = b by rw [BitVec.add_comm]; exact BitVec.sub_add_cancel b a]
  exact h

/-- Without a zero word the walk does not end, and meets as many words as its fuel allows. -/
theorem State.walk_endless (s : State) (h : ∀ a : Word, s.mem.read a ≠ 0x0000#16) (n : Nat) (a : Word) :
    (s.walk n a).2 = false ∧ (s.walk n a).1.length = n := by
  induction n generalizing a with
  | zero => exact ⟨rfl, rfl⟩
  | succ n ih =>
    rw [s.walk_succ n (h a)]
    exact ⟨(ih (a + 1)).1, by rw [List.length_cons, (ih (a + 1)).2]⟩

/-- The walk depends on memory only. -/
theorem State.walk_congr {s t : State} (h : t.mem = s.mem) (n : Nat) (a : Word) : t.walk n a = s.walk n a := by
  induction n generalizing a with
  | zero => rfl
  | succ n ih =>
    by_cases ha : s.mem.read a = 0x0000#16
    · rw [s.walk_zero n ha, t.walk_zero n (by rw [h]; exact ha)]
    · rw [s.walk_succ n ha, t.walk_succ n (by rw [h]; exact ha), h, ih]

/-- PUTSP writes at least one byte for each word. -/
theorem putspBytes_length (ws : List Word) : ws.length ≤ (putspBytes ws).length := by
  induction ws with
  | nil => simp
  | cons w ws ih =>
    have : putspBytes (w :: ws) = (if highByte w = 0x00#8 then [lowByte w] else [lowByte w, highByte w]) ++ putspBytes ws := rfl
    rw [this]
    split <;> simp <;> omega

end Sys2Proof.Machine
end

