-- ==== Sys2Proof/Laws/Step.lean ====
section
/-! SUPPORT. What a step can do, said once, and what each meaning answers, as the one next state it always gives. -/

namespace Sys2Proof.Machine

/-- A step in RUNNING with nothing held runs the fetched instruction. -/
theorem step_fetch {s : State} (hr : s.run = .running) (hh : s.held = none) :
    step s = exec (decode s.arrive.fetch.1) s.arrive.fetch.2 := by simp [step, hr, hh]

/-- A step in RUNNING with an instruction held goes on with it. -/
theorem step_held {s : State} {h : Held} (hr : s.run = .running) (hh : s.held = some h) :
    step s = resume h s.arrive := by simp [step, hr, hh]

/-- A step in HALTED or FAULTED changes nothing. -/
theorem step_stopped {s : State} (hr : s.run ≠ .running) : step s = .next s := by
  unfold step
  cases h : s.run <;> simp_all

/-- What a step that answers `t` can have been. -/
theorem step_cases {s t : State} (h : step s = .next t) :
    (s.run ≠ .running ∧ t = s) ∨
    (s.run = .running ∧ s.held = none ∧ exec (decode s.arrive.fetch.1) s.arrive.fetch.2 = .next t) ∨
    (s.run = .running ∧ ∃ hd, s.held = some hd ∧ resume hd s.arrive = .next t) := by
  by_cases hr : s.run = .running
  · cases hh : s.held with
    | none => exact .inr (.inl ⟨hr, rfl, by rw [← step_fetch hr hh]; exact h⟩)
    | some hd => exact .inr (.inr ⟨hr, hd, rfl, by rw [← step_held hr hh]; exact h⟩)
  · rw [step_stopped hr] at h
    cases h
    exact .inl ⟨hr, rfl⟩

/-- With a word placed by `withFetchWord` anywhere but at `KBSR`, the next step runs it. -/
theorem step_withFetchWord (s : State) (w : Nat) (hp : s.pc ≠ kbsr) :
    step (s.withFetchWord 16 w) =
      exec (decode (BitVec.ofNat 16 w)) ((s.withFetchWord 16 w).arrive.setPc (s.pc + 1)) := by
  have hm : (s.withFetchWord 16 w).arrive.memRead s.pc = (BitVec.ofNat 16 w, (s.withFetchWord 16 w).arrive) := by
    rw [State.memRead_of_ne _ hp]
    have hw : BitVec.ofNat 16 (w % 2 ^ 16) = BitVec.ofNat 16 w := BitVec.eq_of_toNat_eq (by simp)
    simp only [State.withFetchWord, State.arrive_mem, Memory.read_write_self, hw]
  rw [step_fetch rfl rfl]
  show exec (decode ((s.withFetchWord 16 w).arrive.memRead s.pc).1)
    (((s.withFetchWord 16 w).arrive.memRead s.pc).2.setPc (s.pc + 1)) = _
  rw [hm]

end Sys2Proof.Machine
end

