-- ==== Sys2Proof/Tests/Slice0.lean ====
section
/-! SUPPORT. The model's own tests. The expected values are those of 95_test_vectors.md (its row ids are named) and of the
encodings of 30_encoding.md; the last part shows, for every statement with hypotheses, concrete data that meet them. -/

namespace Sys2Proof.Tests

open Sys2Proof Sys2Proof.Machine

/-! ## WellFormed: the one ill-formed kind of term is refused -/

theorem test_wellFormed_refuses_served_vectors :
    wellFormed (.trap 0x20#8) = false ∧ wellFormed (.trap 0x21#8) = false ∧ wellFormed (.trap 0x22#8) = false ∧
    wellFormed (.trap 0x23#8) = false ∧ wellFormed (.trap 0x24#8) = false ∧ wellFormed (.trap 0x25#8) = false := by decide

theorem test_wellFormed_accepts_unserved_vectors :
    wellFormed (.trap 0x1F#8) = true ∧ wellFormed (.trap 0x26#8) = true ∧ wellFormed .trapHalt = true := by decide

/-! ## Decode: a word for every constructor, its fields from bit 15 down (30_encoding.md R82, R84) -/

theorem test_decode_br : decode (0b0000#4 ++ 0b101#3 ++ 0b111111011#9) = .br 0b101#3 0x1FB#9 := by decide
theorem test_decode_addReg :
    decode (0b0001#4 ++ 0b010#3 ++ 0b000#3 ++ 0b0#1 ++ 0b11#2 ++ 0b001#3) = .addReg .r2 .r0 .r1 := by decide
theorem test_decode_addImm :
    decode (0b0001#4 ++ 0b011#3 ++ 0b101#3 ++ 0b1#1 ++ 0b10000#5) = .addImm .r3 .r5 0x10#5 := by decide
theorem test_decode_ld : decode (0b0010#4 ++ 0b010#3 ++ 0b111111111#9) = .ld .r2 0x1FF#9 := by decide
theorem test_decode_st : decode (0b0011#4 ++ 0b001#3 ++ 0b000000100#9) = .st .r1 0x004#9 := by decide
theorem test_decode_jsr : decode (0b0100#4 ++ 0b1#1 ++ 0b10000000000#11) = .jsr 0x400#11 := by decide
theorem test_decode_jsrr :
    decode (0b0100#4 ++ 0b0#1 ++ 0b11#2 ++ 0b010#3 ++ 0b111111#6) = .jsrr .r2 := by decide
theorem test_decode_andReg :
    decode (0b0101#4 ++ 0b010#3 ++ 0b000#3 ++ 0b0#1 ++ 0b00#2 ++ 0b001#3) = .andReg .r2 .r0 .r1 := by decide
theorem test_decode_andImm :
    decode (0b0101#4 ++ 0b100#3 ++ 0b100#3 ++ 0b1#1 ++ 0b00000#5) = .andImm .r4 .r4 0x00#5 := by decide
theorem test_decode_ldr :
    decode (0b0110#4 ++ 0b001#3 ++ 0b010#3 ++ 0b100000#6) = .ldr .r1 .r2 0x20#6 := by decide
theorem test_decode_str :
    decode (0b0111#4 ++ 0b000#3 ++ 0b001#3 ++ 0b011111#6) = .str .r0 .r1 0x1F#6 := by decide
theorem test_decode_rti : decode (0b1000#4 ++ 0b111111111111#12) = .rti := by decide
theorem test_decode_not : decode (0b1001#4 ++ 0b001#3 ++ 0b000#3 ++ 0b111111#6) = .notReg .r1 .r0 := by decide
theorem test_decode_ldi : decode (0b1010#4 ++ 0b100#3 ++ 0b000000010#9) = .ldi .r4 0x002#9 := by decide
theorem test_decode_sti : decode (0b1011#4 ++ 0b010#3 ++ 0b000000000#9) = .sti .r2 0x000#9 := by decide
theorem test_decode_jmp : decode (0b1100#4 ++ 0b111#3 ++ 0b011#3 ++ 0b111111#6) = .jmp .r3 := by decide
theorem test_decode_res : decode (0b1101#4 ++ 0b101010111100#12) = .res := by decide
theorem test_decode_lea : decode (0b1110#4 ++ 0b011#3 ++ 0b111111111#9) = .lea .r3 0x1FF#9 := by decide
theorem test_decode_trapGetc : decode (0b1111#4 ++ 0b0000#4 ++ 0b00100000#8) = .trapGetc := by decide
theorem test_decode_trapOut : decode (0b1111#4 ++ 0b0000#4 ++ 0b00100001#8) = .trapOut := by decide
theorem test_decode_trapPuts : decode (0b1111#4 ++ 0b0000#4 ++ 0b00100010#8) = .trapPuts := by decide
theorem test_decode_trapIn : decode (0b1111#4 ++ 0b0000#4 ++ 0b00100011#8) = .trapIn := by decide
theorem test_decode_trapPutsp : decode (0b1111#4 ++ 0b0000#4 ++ 0b00100100#8) = .trapPutsp := by decide
theorem test_decode_trapHalt : decode (0b1111#4 ++ 0b1111#4 ++ 0b00100101#8) = .trapHalt := by decide
theorem test_decode_trap : decode (0b1111#4 ++ 0b1111#4 ++ 0b00100110#8) = .trap 0x26#8 := by decide

theorem test_encode_fills_ignored_bits_as_the_spec :
    encode (.notReg .r1 .r0) = 0x923F#16 ∧ encode (.jmp .r3) = 0xC0C0#16 ∧ encode .res = 0xD000#16 ∧
    encode (.addReg .r2 .r0 .r1) = 0x1401#16 ∧ encode (.jsrr .r2) = 0x4080#16 := by decide

theorem test_decodeTableWord :
    decodeTableWord 16 0x1401 = some (.addReg .r2 .r0 .r1) ∧ decodeTableWord 8 0x25 = some (.br 0#3 0x025#9) ∧
    decodeTableWord 24 0x1401 = none := by decide

/-! ## One step -/

/-- The reset state with the word `w` at 0x3000 (95_test_vectors.md section 0). -/
def start (w : Word) : State := State.reset.memWrite 0x3000#16 w

/-- The same with another `ENTRY`. -/
def startAt (entry w : Word) : State := (State.resetWith [] entry [] ⟨[], .silent⟩).memWrite entry w

/-- The state after one step. -/
def after (s : State) : State :=
  match step s with
  | .next t => t
  | .fault _ => s
  | .refused _ => s

/-- 2.1, the ends of each width. -/
theorem test_sext :
    sext 0x0F#5 = 0x000F#16 ∧ sext 0x10#5 = 0xFFF0#16 ∧ sext 0x1F#6 = 0x001F#16 ∧ sext 0x20#6 = 0xFFE0#16 ∧
    sext 0x0FF#9 = 0x00FF#16 ∧ sext 0x100#9 = 0xFF00#16 ∧ sext 0x3FF#11 = 0x03FF#16 ∧ sext 0x400#11 = 0xFC00#16 := by
  decide

/-- 2.2. -/
theorem test_condOf :
    condOf 0x0000#16 = flZro ∧ condOf 0x0001#16 = flPos ∧ condOf 0x7FFF#16 = flPos ∧ condOf 0x8000#16 = flNeg ∧
    condOf 0xFFFF#16 = flNeg := by decide

/-- A1. -/
theorem test_add_register_wraps :
    (after (((start 0x1401#16).setReg .r0 0x7FFF#16).setReg .r1 0x0001#16)).reg .r2 = 0x8000#16 ∧
    (after (((start 0x1401#16).setReg .r0 0x7FFF#16).setReg .r1 0x0001#16)).cond = flNeg := by decide
/-- A8. -/
theorem test_add_register_ignores_bits_4_3 :
    (after (((start 0x1419#16).setReg .r0 0x0002#16).setReg .r1 0x0003#16)).reg .r2 = 0x0005#16 := by decide
/-- A5. -/
theorem test_add_immediate_is_signed :
    (after ((start 0x1030#16).setReg .r0 0x0010#16)).reg .r0 = 0x0000#16 ∧
    (after ((start 0x1030#16).setReg .r0 0x0010#16)).cond = flZro := by decide
/-- A9. -/
theorem test_and_register :
    (after (((start 0x5401#16).setReg .r0 0xF0F0#16).setReg .r1 0x8F0F#16)).reg .r2 = 0x8000#16 ∧
    (after (((start 0x5401#16).setReg .r0 0xF0F0#16).setReg .r1 0x8F0F#16)).cond = flNeg := by decide
/-- A10. -/
theorem test_and_immediate_mask : (after ((start 0x5030#16).setReg .r0 0x1234#16)).reg .r0 = 0x1230#16 := by decide
/-- A17. -/
theorem test_not_same_register :
    (after ((start 0x903F#16).setReg .r0 0x8000#16)).reg .r0 = 0x7FFF#16 ∧
    (after ((start 0x903F#16).setReg .r0 0x8000#16)).cond = flPos := by decide
/-- L2. -/
theorem test_ld_reads_itself_at_the_top :
    (after (startAt 0xFFFF#16 0x21FF#16)).reg .r0 = 0x21FF#16 ∧ (after (startAt 0xFFFF#16 0x21FF#16)).pc = 0x0000#16 := by
  decide
/-- L16. -/
theorem test_ldi_pointer_to_itself :
    (after ((start 0xA000#16).memWrite 0x3001#16 0x3001#16)).reg .r0 = 0x3001#16 := by decide
/-- K10: the pointer cell is `KBSR` itself. -/
theorem test_ldi_polls_through_its_pointer :
    (after (((startAt 0xFDFF#16 0xA000#16).memWrite 0x8000#16 0x7777#16).setKbd [0x41#8])).reg .r0 = 0x7777#16 ∧
    (after (((startAt 0xFDFF#16 0xA000#16).memWrite 0x8000#16 0x7777#16).setKbd [0x41#8])).mem.read 0xFE02#16
      = 0x0041#16 := by decide
/-- L6. -/
theorem test_ldr_wraps :
    (after (((start 0x62A0#16).setReg .r2 0x0010#16).memWrite 0xFFF0#16 0x4444#16)).reg .r1 = 0x4444#16 := by decide
/-- K9. -/
theorem test_ldr_polls_the_keyboard :
    (after (((start 0x6040#16).setReg .r1 0xFE00#16).setKbd [0x80#8])).reg .r0 = 0x8000#16 ∧
    (after (((start 0x6040#16).setReg .r1 0xFE00#16).setKbd [0x80#8])).mem.read 0xFE02#16 = 0x0080#16 := by decide
/-- L11. -/
theorem test_lea_sets_the_flags :
    (after (startAt 0x7FFF#16 0xE000#16)).reg .r0 = 0x8000#16 ∧ (after (startAt 0x7FFF#16 0xE000#16)).cond = flNeg := by
  decide
/-- L12. -/
theorem test_st_to_the_next_cell :
    (after ((start 0x3200#16).setReg .r1 0xF025#16)).mem.read 0x3001#16 = 0xF025#16 ∧
    (after (after ((start 0x3200#16).setReg .r1 0xF025#16))).run = .halted := by decide
/-- L13. -/
theorem test_sti_through_the_pointer :
    (after (((start 0xB400#16).setReg .r2 0xABCD#16).memWrite 0x3001#16 0x5000#16)).mem.read 0x5000#16 = 0xABCD#16 := by
  decide
/-- L15. -/
theorem test_str_wraps :
    (after (((start 0x705F#16).setReg .r0 0x5555#16).setReg .r1 0xFFF0#16)).mem.read 0x000F#16 = 0x5555#16 := by decide
/-- B3, B3b. -/
theorem test_br_tests_the_flags :
    (after (start 0x0401#16)).pc = 0x3002#16 ∧ (after (start 0x0801#16)).pc = 0x3001#16 := by decide
/-- B5. -/
theorem test_br_wraps : (after (startAt 0x0000#16 0x0F00#16)).pc = 0xFF01#16 := by decide
/-- B7. -/
theorem test_jmp_ignores_the_other_bits : (after ((start 0xCEFF#16).setReg .r3 0xFFFF#16)).pc = 0xFFFF#16 := by decide
/-- B8. -/
theorem test_jsr_links :
    (after (start 0x4C00#16)).reg .r7 = 0x3001#16 ∧ (after (start 0x4C00#16)).pc = 0x2C01#16 := by decide
/-- B11. -/
theorem test_jsrr_r7_falls_through :
    (after ((start 0x41C0#16).setReg .r7 0x5000#16)).pc = 0x3001#16 ∧
    (after ((start 0x41C0#16).setReg .r7 0x5000#16)).reg .r7 = 0x3001#16 := by decide
/-- B12. -/
theorem test_jsrr : (after ((start 0x4080#16).setReg .r2 0x5000#16)).pc = 0x5000#16 := by decide
/-- B13. -/
theorem test_rti_faults :
    (after (start 0x8000#16)).fault = some ⟨.decodeFault 8#4, 0x3000#16⟩ ∧ (after (start 0x8000#16)).run = .faulted := by
  decide
/-- B14. -/
theorem test_res_faults :
    (after (start 0xD000#16)).fault = some ⟨.decodeFault 13#4, 0x3000#16⟩ ∧ (after (start 0xD000#16)).pc = 0x3001#16 := by
  decide
/-- T2. -/
theorem test_getc_zero_extends :
    (after (((start 0xF020#16).setReg .r0 0xABCD#16).setKbd [0xFF#8])).reg .r0 = 0x00FF#16 ∧
    (after (((start 0xF020#16).setReg .r0 0xABCD#16).setKbd [0xFF#8])).out = [] := by decide
/-- T16: held in RUNNING, one step after another. -/
theorem test_getc_is_held :
    (after (start 0xF020#16)).held = some .getc ∧ after (after (start 0xF020#16)) = after (start 0xF020#16) := by decide
/-- T3. -/
theorem test_out : (after ((start 0xF021#16).setReg .r0 0x1241#16)).out = [0x41#8] := by decide
/-- T7. -/
theorem test_puts_wraps :
    (after ((((start 0xF022#16).setReg .r0 0xFFFF#16).memWrite 0xFFFF#16 0x0041#16).memWrite 0x0000#16 0x0042#16)).out
      = [0x41#8, 0x42#8] := by decide
/-- T15. -/
theorem test_puts_does_not_poll :
    (after (((((start 0xF022#16).setReg .r0 0xFDFF#16).memWrite 0xFDFF#16 0x0041#16).memWrite 0xFE00#16
      0x0042#16).setKbd [0x7A#8])).out = [0x41#8, 0x42#8] ∧
    (after (((((start 0xF022#16).setReg .r0 0xFDFF#16).memWrite 0xFDFF#16 0x0041#16).memWrite 0xFE00#16
      0x0042#16).setKbd [0x7A#8])).kbd = [0x7A#8] := by decide
/-- T11, for every prompt. -/
theorem test_in_prompts_and_echoes :
    (after ((start 0xF023#16).setKbd [0x79#8])).out = Config.inPrompt ++ [0x79#8] ∧
    (after ((start 0xF023#16).setKbd [0x79#8])).reg .r0 = 0x0079#16 := ⟨rfl, rfl⟩
/-- T8. -/
theorem test_putsp_writes_a_zero_low_byte :
    (after (((start 0xF024#16).setReg .r0 0x4000#16).memWrite 0x4000#16 0x4100#16)).out = [0x00#8, 0x41#8] := by decide
/-- T9. -/
theorem test_putsp_skips_a_zero_high_byte :
    (after ((((start 0xF024#16).setReg .r0 0x4000#16).memWrite 0x4000#16 0x6548#16).memWrite 0x4001#16 0x006C#16)).out
      = [0x48#8, 0x65#8, 0x6C#8] := by decide
/-- T12, for every notice. -/
theorem test_halt :
    (after (start 0xF025#16)).run = .halted ∧ (after (start 0xF025#16)).reg .r7 = 0x3001#16 ∧
    (after (start 0xF025#16)).out = Config.haltNotice := ⟨rfl, rfl, rfl⟩
/-- T13d. -/
theorem test_trap_fault :
    (after (start 0xF0FF#16)).fault = some ⟨.trapFault 0xFF#8, 0x3000#16⟩ ∧
    (after (start 0xF0FF#16)).reg .r7 = 0x3001#16 := by decide
/-- K6b: the fetch itself polls. -/
theorem test_fetch_polls :
    (after ((State.resetWith [] 0xFE00#16 [] ⟨[], .silent⟩).setKbd [0x41#8])).fault = some ⟨.decodeFault 8#4, 0xFE00#16⟩ ∧
    (after ((State.resetWith [] 0xFE00#16 [] ⟨[], .silent⟩).setKbd [0x41#8])).mem.read 0xFE02#16 = 0x0041#16 := by decide
/-- F1. -/
theorem test_pc_wraps : (after (startAt 0xFFFF#16 0x0000#16)).pc = 0x0000#16 := by decide

theorem test_withFetchWord_runs_the_word :
    (after (State.reset.withFetchWord 16 0x127F)).reg .r1 = 0xFFFF#16 ∧
    (after (State.reset.withFetchWord 16 0xF025)).run = .halted := by decide

/-- 20_memory.md R67: origin 0x3000, the words of program P1. -/
theorem test_boot :
    State.boot [0x30#8, 0x00#8, 0x10#8, 0x20#8, 0xF0#8, 0x25#8] [] ⟨[], .silent⟩ =
      some (State.resetWith [(0x3000, 0x1020#16), (0x3001, 0xF025#16)] 0x3000#16 [] ⟨[], .silent⟩) := by decide

theorem test_arrivals_join_before_the_step :
    (after { start 0xF020#16 with arrivals := ⟨[[0x61#8, 0x62#8]], .silent⟩ }).reg .r0 = 0x0061#16 ∧
    (after { start 0xF020#16 with arrivals := ⟨[[0x61#8, 0x62#8]], .silent⟩ }).kbd = [0x62#8] := by decide

/-- Under an unconstrained environment the queue holds the free values of the stream, one tick a step. -/
theorem test_free_arrivals_never_end :
    (after (after { start 0x0000#16 with arrivals := ⟨[], .free 7 0⟩ })).kbd =
      [] ++ Config.freeArrivals 7 0 ++ Config.freeArrivals 7 1 ∧
    (after (after { start 0x0000#16 with arrivals := ⟨[], .free 7 0⟩ })).arrivals = ⟨[], .free 7 2⟩ := ⟨rfl, rfl⟩

/-! ## Witnesses: data that meet the hypotheses of the statements -/

theorem witness_register_write_not_the_register :
    Reg.r6 ≠ Reg.r7 ∧ (start 0#16).reg .r6 = ((start 0#16).setReg .r7 0xFFFF#16).reg .r6 := by decide

/-- MemRead, its three clauses, the first at the cells next to `KBSR`. -/
theorem witness_MemReadPollsTheKeyboardAtKbsrOnly :
    (0xFDFF#16 ≠ 0xFE00#16 ∧ 0xFE01#16 ≠ 0xFE00#16 ∧ 0xFE02#16 ≠ 0xFE00#16) ∧ (start 0#16).kbd = [] ∧
    ((start 0#16).setKbd [0xFF#8, 0x00#8]).kbd = 0xFF#8 :: [0x00#8] := by decide

theorem witness_CanonicalMemoriesThatReadAlikeAreEqual :
    Memory.wf [(0, 0x0001#16), (65535, 0x0002#16)] = true ∧
    Memory.wf ((Memory.write [] 0xFFFF#16 0x0002#16).write 0x0000#16 0x0001#16) = true ∧
    ∀ a : Word, Memory.read [(0, 0x0001#16), (65535, 0x0002#16)] a =
      ((Memory.write [] 0xFFFF#16 0x0002#16).write 0x0000#16 0x0001#16).read a :=
  ⟨by decide, by decide, fun _ => rfl⟩

/-- Sign extension, every width, at both ends of both halves. -/
theorem witness_SignExtensionKeepsTheSignedValue :
    (0x0F#5).toNat < 2 ^ (5 - 1) ∧ 2 ^ (5 - 1) ≤ (0x10#5).toNat ∧ (0x1F#5).getLsbD (5 - 1) = true ∧
    (0x1F#6).toNat < 2 ^ (6 - 1) ∧ 2 ^ (6 - 1) ≤ (0x20#6).toNat ∧ (0x00#6).getLsbD (6 - 1) = false ∧
    (0x0FF#9).toNat < 2 ^ (9 - 1) ∧ 2 ^ (9 - 1) ≤ (0x100#9).toNat ∧ (0x1FF#9).getLsbD (9 - 1) = true ∧
    (0x3FF#11).toNat < 2 ^ (11 - 1) ∧ 2 ^ (11 - 1) ≤ (0x400#11).toNat ∧ (0x000#11).getLsbD (11 - 1) = false := by decide

/-- The three flag classes at the ends of their ranges. -/
theorem witness_FlagsShow :
    (0x0000#16).toNat = 0 ∧ (1 ≤ (0x0001#16).toNat ∧ (0x0001#16).toNat ≤ 0x7FFF) ∧
    (1 ≤ (0x7FFF#16).toNat ∧ (0x7FFF#16).toNat ≤ 0x7FFF) ∧ 0x8000 ≤ (0x8000#16).toNat ∧
    0x8000 ≤ (0xFFFF#16).toNat := by decide

/-- A word that two rows of the table match. -/
theorem witness_EveryWordSelectsExactlyOneRowOfTheOpcodeTable :
    opcodeRowFallback ∈ opcodeTable ∧ opcodeRowFallback.matchesWord 0xF020#16 = true ∧
    (decode 0xF020#16).row ≠ opcodeRowFallback := by decide

theorem witness_IgnoredBitsDoNotChangeTheInstruction :
    0x0018#16 &&& ~~~ ignoredBits (decode 0x1401#16) = 0x0000#16 ∧
    0x0F00#16 &&& ~~~ ignoredBits (decode 0xF025#16) = 0x0000#16 ∧
    0x0E3F#16 &&& ~~~ ignoredBits (decode 0xC0C0#16) = 0x0000#16 := by decide

theorem witness_DecodeOfEncodeIsTheInstruction :
    wellFormed (.br 0b111#3 0x1FF#9) = true ∧ wellFormed (.trap 0x00#8) = true ∧ wellFormed (.trap 0x1F#8) = true ∧
    wellFormed (.trap 0x26#8) = true ∧ wellFormed (.trap 0xFF#8) = true := by decide

theorem witness_StepFetchesIncrementsAndRunsTheDecodedInstruction :
    (start 0x1401#16).run = .running ∧ (start 0x1401#16).held = none ∧ (start 0x1401#16).pc ≠ 0xFE00#16 ∧
    (State.resetWith [] 0xFE00#16 [] ⟨[], .silent⟩).run = .running ∧ (State.resetWith [] 0xFE00#16 [] ⟨[], .silent⟩).held = none := by decide

theorem witness_HaltedAndFaultedAreFrozen :
    (after (start 0xF025#16)).run ≠ .running ∧ (after (start 0xD000#16)).run ≠ .running := by decide

/-- Loads: an address next to `KBSR`, and `KBSR` itself. -/
theorem witness_loads :
    (startAt 0xFDFE#16 0x2000#16).pc + sext 0x000#9 ≠ 0xFE00#16 ∧
    (startAt 0xFDFF#16 0x2000#16).pc + sext 0x001#9 = 0xFE00#16 := by decide

/-- BR: taken, not taken, and each legal value of `COND`. -/
theorem witness_BrBranchesExactlyWhenAConditionBitIsMet :
    flZro &&& (0b0#1 ++ 0b1#1 ++ 0b0#1).setWidth 16 ≠ 0x0000#16 ∧
    flZro &&& (0b1#1 ++ 0b0#1 ++ 0b1#1).setWidth 16 = 0x0000#16 ∧
    flNeg &&& (0b1#1 ++ 0b0#1 ++ 0b0#1).setWidth 16 ≠ 0x0000#16 ∧
    flPos &&& (0b0#1 ++ 0b0#1 ++ 0b1#1).setWidth 16 ≠ 0x0000#16 ∧
    CondLegal flPos ∧ CondLegal flZro ∧ CondLegal flNeg :=
  ⟨by decide, by decide, by decide, by decide, .inl rfl, .inr (.inl rfl), .inr (.inr rfl)⟩

theorem witness_JsrrLinksBeforeItReadsTheBaseRegister :
    Reg.ofBits 0b110#3 ≠ .r7 ∧ Reg.ofBits 0b111#3 = .r7 := by decide

/-- GETC and IN: a queue of one byte, of several, and the empty one. -/
theorem witness_GetcTakesAKeyOrIsHeld :
    ((start 0xF020#16).setKbd [0x00#8]).kbd = 0x00#8 :: [] ∧
    ((start 0xF023#16).setKbd [0xFF#8, 0x41#8]).kbd = 0xFF#8 :: [0x41#8] ∧ (start 0xF020#16).kbd = [] := by decide

/-- A memory whose cells below `n` hold 1 and whose other cells are zero. -/
theorem memory_of_ones (n : Nat) :
    ∃ m : Memory, m.wf = true ∧ ∀ a : Word, m.read a = if a.toNat < n then 0x0001#16 else 0x0000#16 := by
  induction n with
  | zero => exact ⟨[], rfl, fun a => by simp [Memory.unlisted]⟩
  | succ n ih =>
    obtain ⟨m, hwf, hm⟩ := ih
    by_cases hn : n < 65536
    · refine ⟨m.write (BitVec.ofNat 16 n) 0x0001#16, Memory.wf_write _ _ hwf, fun a => ?_⟩
      have key : a = BitVec.ofNat 16 n ↔ a.toNat = n := by
        rw [← BitVec.toNat_inj, BitVec.toNat_ofNat, Nat.mod_eq_of_lt hn]
      rw [Memory.read_write, hm]
      by_cases ha : a.toNat = n
      · simp [key, ha]
      · simp only [key, ha, if_false, show (a.toNat < n + 1) = (a.toNat < n) from propext (by omega)]
    · refine ⟨m, hwf, fun a => ?_⟩
      rw [hm a, if_pos (by omega), if_pos (by omega)]

/-- PUTS and PUTSP: the empty string, one that wraps, and the longest there is. -/
theorem witness_StringAt_empty : StringAt (start 0xF022#16) 0x4000#16 [] :=
  ⟨by decide, fun k w h => by simp at h, by decide⟩

theorem witness_StringAt_wraps :
    StringAt (((start 0xF022#16).memWrite 0xFFFF#16 0x0041#16).memWrite 0x0000#16 0x0042#16) 0xFFFF#16
      [0x0041#16, 0x0042#16] := by
  refine ⟨by decide, fun k w h => ?_, by decide⟩
  match k with
  | 0 => obtain rfl : 0x0041#16 = w := by simpa using h
         decide
  | 1 => obtain rfl : 0x0042#16 = w := by simpa using h
         decide
  | k + 2 => simp at h

theorem witness_StringAt_longest :
    ∃ (s : State) (ws : List Word), ws.length = 65535 ∧ StringAt s (s.reg .r0) ws := by
  obtain ⟨m, -, hm⟩ := memory_of_ones 65535
  refine ⟨State.reset.setMem m, List.replicate 65535 0x0001#16, List.length_replicate, ?_, fun k w h => ?_, ?_⟩
  · rw [List.length_replicate]; omega
  · obtain ⟨hk, rfl⟩ := List.getElem?_eq_some_iff.mp h
    rw [List.length_replicate] at hk
    have hk' : (0x0000#16 + BitVec.ofNat 16 k).toNat = k := by
      rw [BitVec.zero_add, BitVec.toNat_ofNat, Nat.mod_eq_of_lt (by omega)]
    show _ ∧ m.read (0x0000#16 + BitVec.ofNat 16 k) = _
    rw [hm, hk', if_pos hk, List.getElem_replicate]
    exact ⟨by decide, rfl⟩
  · rw [List.length_replicate]
    show m.read (0x0000#16 + BitVec.ofNat 16 65535) = _
    rw [hm, if_neg (by decide)]

theorem witness_UnservedTrapVectorsRaiseTrapFault :
    ((0x00#8).toNat < 0x20 ∨ 0x25 < (0x00#8).toNat) ∧ ((0x1F#8).toNat < 0x20 ∨ 0x25 < (0x1F#8).toNat) ∧
    ((0x26#8).toNat < 0x20 ∨ 0x25 < (0x26#8).toNat) ∧ ((0xFF#8).toNat < 0x20 ∨ 0x25 < (0xFF#8).toNat) := by decide

/-- A memory with a zero word, and one with none. -/
theorem witness_StringRoutinesEndExactlyWhenMemoryHoldsAZeroWord :
    (∃ a : Word, (start 0xF022#16).mem.read a = 0x0000#16) ∧
    (∃ s : State, ∀ a : Word, s.mem.read a ≠ 0x0000#16) := by
  refine ⟨⟨0x0000#16, by decide⟩, ?_⟩
  obtain ⟨m, -, hm⟩ := memory_of_ones 65536
  refine ⟨State.reset.setMem m, fun a => ?_⟩
  show m.read a ≠ _
  rw [hm, if_pos a.isLt]
  decide

theorem witness_HeldStringRoutinesWriteForEver :
    ∀ h : Held, h = .puts ∨ h = .putsp →
      ∃ s : State, s.run = .running ∧ s.held = some h ∧ ∀ a : Word, s.mem.read a ≠ 0x0000#16 := by
  obtain ⟨-, s, hs⟩ := witness_StringRoutinesEndExactlyWhenMemoryHoldsAZeroWord
  exact fun h _ => ⟨(s.setRun .running).setHeld (some h), rfl, rfl, hs⟩

/-- GETC held for want of a byte, and the step in which one has arrived; the same for IN. -/
theorem witness_HeldGetcAndInWaitForAByteAndThenComplete :
    let g := after (start 0xF020#16)
    let i := (start 0xF023#16).setHeld (some .inChar)
    (g.run = .running ∧ g.held = some .getc ∧ g.kbd ++ g.arrivals.next = []) ∧
    (i.run = .running ∧ i.held = some .inChar ∧ i.kbd ++ i.arrivals.next = []) ∧
    (g.setKbd [0x41#8]).kbd ++ g.arrivals.next = 0x41#8 :: [] ∧
    ((i.setKbd [0xFF#8]).run = .running ∧ (i.setKbd [0xFF#8]).held = some .inChar ∧
      (i.setKbd [0xFF#8]).kbd ++ (i.setKbd [0xFF#8]).arrivals.next = 0xFF#8 :: []) := by decide

theorem witness_ResetMeetsTheInvariant : Memory.wf [(0, 0x0001#16), (0xFE00, 0x8000#16), (65535, 0xFFFF#16)] = true := by
  decide

/-- States that meet the invariant: RUNNING with a word to fetch, and GETC held. -/
theorem witness_EveryStepKeepsTheInvariant : (start 0xF025#16).Inv ∧ (after (start 0xF020#16)).Inv :=
  ⟨⟨.inr (.inl rfl), by decide, by decide, by decide, by decide⟩,
    ⟨.inr (.inl rfl), by decide, by decide, by decide, by decide⟩⟩

/-- An instruction that transfers no control, defines a register, and leaves `R5` alone. -/
theorem witness_rules_of_the_whole_machine :
    exec (.lea .r0 0x000#9) State.reset = .next (State.reset.define .r0 0x3000#16) ∧
    transfersControl (.lea .r0 0x000#9) = false ∧ definedReg (.lea .r0 0x000#9) = some .r0 ∧
    definedReg .trapOut = none ∧ Reg.r5 ∉ regsWritten (.lea .r0 0x000#9) ∧ Reg.r5 ∉ regsRead (.lea .r0 0x000#9) ∧
    writesTerminal (.lea .r0 0x000#9) = false :=
  ⟨rfl, rfl, rfl, rfl, by decide, by decide, rfl⟩

/-- Registers that are not read: one written, one not, and `R0` of a GETC without a key. -/
theorem witness_NoOtherRegisterIsRead :
    Reg.r0 ∉ regsRead (.lea .r0 0x000#9) ∧ Reg.r0 ∈ regsWritten (.lea .r0 0x000#9) ∧
    Reg.r5 ∉ regsRead .trapOut ∧ Reg.r5 ∉ regsWritten .trapOut ∧
    Reg.r0 ∉ regsRead .trapGetc ∧ Reg.r0 ∈ regsWritten .trapGetc ∧ (start 0xF020#16).kbd = [] := by decide

/-- The arrivals: the last listed step, and the first step after the list. -/
theorem witness_TheKeyboardIsAnUnconstrainedFifoQueue :
    ((start 0#16).setKbd [0x41#8]).kbd = 0x41#8 :: [] ∧ [[0x41#8], ([] : List Byte)][1]? = some [] ∧
    [[0x41#8], ([] : List Byte)].length ≤ 2 := by decide

/-- A run of two steps in RUNNING, and one of three that is over after the first. -/
theorem witness_AlongEveryRunOutputGrowsAndKeysAreTakenInOrder :
    (∃ t, Host.Core.run Sys2Proof.core 2 ((start 0xF020#16).setKbd [0x41#8]) = .next t ∧ t.run = .running) ∧
    (∃ t, Host.Core.run Sys2Proof.core 3 (start 0xF025#16) = .next t ∧ t.run ≠ .running) :=
  ⟨⟨_, rfl, rfl⟩, ⟨_, rfl, by decide⟩⟩

theorem witness_RunsEndOnlyByHaltAndByTheTwoFaults :
    (start 0xF025#16).run = .running ∧ step (start 0xF025#16) = .next (after (start 0xF025#16)) ∧
    (start 0xD000#16).run = .running ∧ step (start 0xD000#16) = .next (after (start 0xD000#16)) := ⟨rfl, rfl, rfl, rfl⟩

/-- Both faults. -/
theorem witness_FaultsArePrecise :
    (step (start 0x8000#16) = .next (after (start 0x8000#16)) ∧ (after (start 0x8000#16)).run = .faulted) ∧
    (step (start 0xF026#16) = .next (after (start 0xF026#16)) ∧ (after (start 0xF026#16)).run = .faulted) :=
  ⟨⟨rfl, rfl⟩, ⟨rfl, rfl⟩⟩

/-- L12, and the same where the next cell is the first of memory. -/
theorem witness_AStoredWordIsTheNextInstructionFetched :
    (start 0x3200#16).run = .running ∧ (start 0x3200#16).held = none ∧ (start 0x3200#16).pc ≠ 0xFE00#16 ∧
    (start 0x3200#16).pc + 1 ≠ 0xFE00#16 ∧ decode ((start 0x3200#16).mem.read (start 0x3200#16).pc) = .st .r1 0#9 ∧
    decode ((startAt 0xFFFF#16 0x3200#16).mem.read (startAt 0xFFFF#16 0x3200#16).pc) = .st .r1 0#9 := by decide

/-- A word at the origin, the last word that fits, and addresses on both sides of the loaded block. -/
theorem witness_LoadedWordsStandFromTheOrigin :
    [0xF025#16][0]? = some 0xF025#16 ∧ 0x3000 + 0 < 65536 ∧ 65535 + 0 < 65536 ∧
    ((0x2FFF#16).toNat < 0x3000 ∨ 0x3000 + [0xF025#16].length ≤ (0x2FFF#16).toNat) ∧
    ((0x3001#16).toNat < 0x3000 ∨ 0x3000 + [0xF025#16].length ≤ (0x3001#16).toNat) ∧ Memory.wf [] = true := by decide

end Sys2Proof.Tests
end

/-! The register file and the condition flags (10_state.md sections 2 and 4): what a register write and a flag update show
in the words of the statements, and the two statements settled from it. -/

namespace Sys2Proof.Machine

/-! ## A register write -/

theorem State.sameRegsExcept_setReg (s : State) (r : Reg) (v : Word) : SameRegsExcept r s (s.setReg r v) :=
  fun _ hx => State.reg_setReg_of_ne s v hx

theorem State.sameTerminal_setReg (s : State) (r : Reg) (v : Word) : SameTerminal s (s.setReg r v) :=
  ⟨State.setReg_kbd s r v, State.setReg_out s r v, State.setReg_arrivals s r v⟩

theorem State.sameRunState_setReg (s : State) (r : Reg) (v : Word) : SameRunState s (s.setReg r v) :=
  ⟨State.setReg_run s r v, State.setReg_fault s r v, State.setReg_held s r v⟩

/-! ## The names of the registers, and their values at reset -/

/-- Each register is named by its own number and by no other. -/
theorem Reg.ofBits_eq_iff {b : BitVec 3} {r : Reg} : Reg.ofBits b = r ↔ b = r.toBits := by
  constructor
  · rintro rfl
    exact (Reg.toBits_ofBits b).symm
  · rintro rfl
    exact Reg.ofBits_toBits r

@[simp] theorem State.reg_resetWith (image : Memory) (entry : Word) (kbd : List Byte) (arrivals : Arrivals) (r : Reg) :
    (State.resetWith image entry kbd arrivals).reg r = 0x0000#16 := by
  cases r <;> rfl

/-! ## A flag update -/

/-- A state whose `COND` is the class of a Word shows that class by the three ranges of 10_state.md R26. -/
theorem flagsShow_of_cond {v : Word} {t : State} (h : t.cond = condOf v) : FlagsShow v t :=
  ⟨fun hz => h.trans (condOf_zero hz), fun ⟨h₁, h₂⟩ => h.trans (condOf_pos h₁ h₂), fun hn => h.trans (condOf_neg hn)⟩

theorem State.flagsShow_updateFlags (s : State) (r : Reg) : FlagsShow (s.reg r) (s.updateFlags r) :=
  flagsShow_of_cond (State.updateFlags_cond s r)

theorem flags_distinct : flPos ≠ flZro ∧ flZro ≠ flNeg ∧ flPos ≠ flNeg := by decide

theorem State.sameRegs_updateFlags (s : State) (r : Reg) : SameRegs s (s.updateFlags r) :=
  State.reg_updateFlags s r

theorem State.sameTerminal_updateFlags (s : State) (r : Reg) : SameTerminal s (s.updateFlags r) :=
  ⟨State.updateFlags_kbd s r, State.updateFlags_out s r, State.updateFlags_arrivals s r⟩

theorem State.sameRunState_updateFlags (s : State) (r : Reg) : SameRunState s (s.updateFlags r) :=
  ⟨State.updateFlags_run s r, State.updateFlags_fault s r, State.updateFlags_held s r⟩

/-! ## The statements -/

/-- Settles O2: by the read-after-write laws of the register file, the inverse pair `Reg.toBits` and `Reg.ofBits`, and the
register file of the reset state. -/
theorem registersHoldWhatWasLastWritten : Obligations.RegistersHoldWhatWasLastWritten := by
  refine ⟨fun s r v => ?write, fun r => ?name, State.reg_resetWith⟩
  case write =>
    exact ⟨State.reg_setReg_self s r v, State.sameRegsExcept_setReg s r v, State.setReg_pc s r v, State.setReg_cond s r v,
      State.setReg_mem s r v, State.sameTerminal_setReg s r v, State.sameRunState_setReg s r v⟩
  case name =>
    exact ⟨r.toBits, Reg.ofBits_toBits r, fun _ hc => Reg.ofBits_eq_iff.mp hc⟩

/-- Settles O3: the class `condOf` gives agrees with the three ranges, and `updateFlags` writes `COND` alone. -/
theorem updateFlagsClassifiesTheRegisterAndWritesOnlyCond :
    Obligations.UpdateFlagsClassifiesTheRegisterAndWritesOnlyCond := by
  intro s r
  exact ⟨State.flagsShow_updateFlags s r, flags_distinct, State.sameRegs_updateFlags s r, State.updateFlags_pc s r,
    State.updateFlags_mem s r, State.sameTerminal_updateFlags s r, State.sameRunState_updateFlags s r⟩

end Sys2Proof.Machine

/-! The memory (20_memory.md section 3): what `MemWrite` shows in the words of the statements, and the statement settled
from it. -/

namespace Sys2Proof.Machine

/-! ## A memory write -/

theorem State.read_memWrite_self (s : State) (a v : Word) : (s.memWrite a v).mem.read a = v :=
  Memory.read_write_self s.mem a v

theorem State.sameMemoryExcept_memWrite (s : State) (a v : Word) : SameMemoryExcept a s (s.memWrite a v) :=
  fun _ hb => Memory.read_write_of_ne s.mem v hb

theorem State.sameRegs_memWrite (s : State) (a v : Word) : SameRegs s (s.memWrite a v) :=
  State.reg_memWrite s a v

theorem State.sameTerminal_memWrite (s : State) (a v : Word) : SameTerminal s (s.memWrite a v) :=
  ⟨State.memWrite_kbd s a v, State.memWrite_out s a v, State.memWrite_arrivals s a v⟩

theorem State.sameRunState_memWrite (s : State) (a v : Word) : SameRunState s (s.memWrite a v) :=
  ⟨State.memWrite_run s a v, State.memWrite_fault s a v, State.memWrite_held s a v⟩

/-! ## The statement -/

/-- Settles O4: by the read-after-write laws of the array `M`, which hold at every address, the device addresses included;
`memWrite` updates the field `mem` alone. -/
theorem memWriteStoresTheWordAndChangesNothingElse : Obligations.MemWriteStoresTheWordAndChangesNothingElse := by
  intro s a v
  exact ⟨State.read_memWrite_self s a v, State.sameMemoryExcept_memWrite s a v, State.sameRegs_memWrite s a v,
    State.memWrite_pc s a v, State.memWrite_cond s a v, State.sameTerminal_memWrite s a v,
    State.sameRunState_memWrite s a v⟩

end Sys2Proof.Machine

/-! The opcode table (30_encoding.md section 3, R82): the row of a decoded instruction matches the word, two rows that match
one word agree on the bits both masks test, and the statement settled from it. -/

namespace Sys2Proof

theorem Row.matchesWord_iff {r : Row} {w : Word} : r.matchesWord w = true ↔ w &&& r.mask = r.value := decide_eq_true_iff

/-! ## The row of the decoded instruction -/

theorem Instr.row_mem_opcodeTable (i : Instr) : i.row ∈ opcodeTable := by
  cases i <;> simp [Instr.row, opcodeTable, opcodeRowsPlain, opcodeRowsTrap]

theorem opcode_cases : ∀ op : BitVec 4,
    op = 0b0000#4 ∨ op = 0b0001#4 ∨ op = 0b0010#4 ∨ op = 0b0011#4 ∨ op = 0b0100#4 ∨ op = 0b0101#4 ∨ op = 0b0110#4 ∨
    op = 0b0111#4 ∨ op = 0b1000#4 ∨ op = 0b1001#4 ∨ op = 0b1010#4 ∨ op = 0b1011#4 ∨ op = 0b1100#4 ∨ op = 0b1101#4 ∨
    op = 0b1110#4 ∨ op = 0b1111#4 := by decide

/-- The row of a trap: the fallback, or the row of exactly its vector. -/
theorem row_decodeTrap (v : BitVec 8) :
    (decodeTrap v).row = opcodeRowFallback ∨
      ((decodeTrap v).row.mask = 0xF0FF#16 ∧ (decodeTrap v).row.value = 0xF000#16 ||| v.setWidth 16) := by
  unfold decodeTrap
  split_ifs <;> simp [*, Instr.row]

/-- By the selectors of the opcode map, in its order: `ir[15:12]`, then `ir[5]`, `ir[11]` or the vector. -/
theorem matchesWord_row_decode (w : Word) : (decode w).row.matchesWord w = true := by
  rw [Row.matchesWord_iff]
  rcases opcode_cases (w.extractLsb' 12 4) with h | h | h | h | h | h | h | h | h | h | h | h | h | h | h | h
  · simp [decode_br h, Instr.row, and_F000, h]
  · rcases BitVec.eq_zero_or_eq_one (w.extractLsb' 5 1) with hs | hs
    · simp [decode_addReg h hs, Instr.row, and_F020, h, hs]
    · simp [decode_addImm h hs, Instr.row, and_F020, h, hs]
  · simp [decode_ld h, Instr.row, and_F000, h]
  · simp [decode_st h, Instr.row, and_F000, h]
  · rcases BitVec.eq_zero_or_eq_one (w.extractLsb' 11 1) with hs | hs
    · simp [decode_jsrr h hs, Instr.row, and_F800, h, hs]
    · simp [decode_jsr h hs, Instr.row, and_F800, h, hs]
  · rcases BitVec.eq_zero_or_eq_one (w.extractLsb' 5 1) with hs | hs
    · simp [decode_andReg h hs, Instr.row, and_F020, h, hs]
    · simp [decode_andImm h hs, Instr.row, and_F020, h, hs]
  · simp [decode_ldr h, Instr.row, and_F000, h]
  · simp [decode_str h, Instr.row, and_F000, h]
  · simp [decode_rti h, Instr.row, and_F000, h]
  · simp [decode_notReg h, Instr.row, and_F000, h]
  · simp [decode_ldi h, Instr.row, and_F000, h]
  · simp [decode_sti h, Instr.row, and_F000, h]
  · simp [decode_jmp h, Instr.row, and_F000, h]
  · simp [decode_res h, Instr.row, and_F000, h]
  · simp [decode_lea h, Instr.row, and_F000, h]
  · rw [decode_trap h]
    rcases row_decodeTrap (w.extractLsb' 0 8) with hrow | ⟨hmask, hvalue⟩
    · simp [hrow, opcodeRowFallback, and_F000, h]
    · simp [hmask, hvalue, and_F0FF, h]

/-! ## A word that the row of a served vector matches -/

theorem fields_of_and_F0FF {w v : Word} (h : w &&& 0xF0FF#16 = v) :
    w.extractLsb' 12 4 = v.extractLsb' 12 4 ∧ w.extractLsb' 0 8 = v.extractLsb' 0 8 := by
  subst h
  rw [BitVec.extractLsb'_and, BitVec.extractLsb'_and]
  exact ⟨BitVec.and_allOnes.symm, BitVec.and_allOnes.symm⟩

/-- Each such row tests the opcode and the vector; its opcode is 15, and its vector leads back to it. -/
theorem decodeTrap_of_mem_opcodeRowsTrap : ∀ r ∈ opcodeRowsTrap,
    r.mask = 0xF0FF#16 ∧ r.value.extractLsb' 12 4 = 0b1111#4 ∧ (decodeTrap (r.value.extractLsb' 0 8)).row = r := by
  decide

theorem row_decode_of_served {r : Row} {w : Word} (hr : r ∈ opcodeRowsTrap) (hm : r.matchesWord w = true) :
    (decode w).row = r := by
  obtain ⟨hmask, hop, hrow⟩ := decodeTrap_of_mem_opcodeRowsTrap r hr
  obtain ⟨hwop, hwvec⟩ := fields_of_and_F0FF (hmask ▸ Row.matchesWord_iff.mp hm)
  rw [decode_trap (hwop.trans hop), hwvec, hrow]

/-! ## Two rows that match one word -/

theorem Row.agree_of_matchesWord {r r' : Row} {w : Word} (h : r.matchesWord w = true) (h' : r'.matchesWord w = true) :
    r.value &&& r'.mask = r'.value &&& r.mask := by
  rw [← Row.matchesWord_iff.mp h, ← Row.matchesWord_iff.mp h', BitVec.and_assoc, BitVec.and_assoc,
    BitVec.and_comm r.mask]

/-- The overlaps of the table, over its pairs of rows: only the fallback, and only with the rows of the served vectors. -/
theorem Row.eq_or_fallback_of_agree : ∀ r ∈ opcodeTable, ∀ r' ∈ opcodeTable,
    r.value &&& r'.mask = r'.value &&& r.mask →
      r = r' ∨ (r = opcodeRowFallback ∧ r'.mask = 0xF0FF#16) ∨ (r' = opcodeRowFallback ∧ r ∈ opcodeRowsTrap) := by
  decide

/-- Settles O8: the decoded instruction's row matches, and another row that matches agrees with it on their common mask, so
one of the two is the fallback; it is not the decoded one, since a served vector decodes to its own row. -/
theorem everyWordSelectsExactlyOneRowOfTheOpcodeTable : Obligations.EveryWordSelectsExactlyOneRowOfTheOpcodeTable := by
  intro w
  refine ⟨Instr.row_mem_opcodeTable _, matchesWord_row_decode w, fun r hr hm => ?_⟩
  have hagree := Row.agree_of_matchesWord hm (matchesWord_row_decode w)
  rcases Row.eq_or_fallback_of_agree r hr _ (Instr.row_mem_opcodeTable _) hagree with heq | hover | ⟨-, hserved⟩
  · exact .inl heq
  · exact .inr hover
  · exact .inl (row_decode_of_served hserved hm).symm

end Sys2Proof

/-! Sign extension (30_encoding.md section 4, R86): the two cases of the algorithm, its agreement with the sign extension of
the library, the equivalent sums, and the statement settled from them. -/

namespace Sys2Proof.Machine

section
variable {n : Nat} {v : BitVec n}

theorem sext_of_msb_true (h : v.msb = true) : sext v = v.setWidth 16 ||| sextMask n := if_pos h

theorem sext_of_msb_false (h : v.msb = false) : sext v = v.setWidth 16 := if_neg (by simp [h])

/-- The mask holds the bits from the width up. -/
theorem getElem_sextMask (n : Nat) {i : Nat} (hi : i < 16) : (sextMask n)[i] = !decide (i < n) := by
  have hones : ∀ (j : Nat) (hj : j < 16), (0xFFFF#16)[j] = true := by decide
  by_cases h : i < n <;> simp [sextMask, hones, h]

theorem sext_eq_signExtend (v : BitVec n) : sext v = v.signExtend 16 := by
  cases hm : v.msb with
  | false => rw [sext_of_msb_false hm, BitVec.signExtend_eq_setWidth_of_msb_false hm]
  | true =>
    rw [sext_of_msb_true hm]
    ext i hi
    by_cases hlow : i < n <;> simp [getElem_sextMask, BitVec.getElem_signExtend, hlow, hm]

theorem toNat_sext_of_msb_false (hn : n ≤ 16) (h : v.msb = false) : (sext v).toNat = v.toNat := by
  rw [sext_of_msb_false h, BitVec.toNat_setWidth_of_le hn]

theorem toNat_sext_of_msb_true (hn : n ≤ 16) (h : v.msb = true) : (sext v).toNat = v.toNat + 65536 - 2 ^ n := by
  have hpow : 2 ^ n ≤ 2 ^ 16 := Nat.pow_le_pow_right (by decide) hn
  rw [sext_eq_signExtend, BitVec.toNat_signExtend, if_pos h, BitVec.toNat_setWidth_of_le hn]
  omega

end

/-- Settles O7: for every width up to 16 the OR with the mask is the library's sign extension, which keeps the signed value,
and the sign bit says which of the two sums applies. -/
theorem signExtensionKeepsTheSignedValue : Obligations.SignExtensionKeepsTheSignedValue := by
  intro n hwidth v
  have hn : n ≤ 16 := by omega
  rw [← BitVec.msb_eq_getLsbD_last]
  refine ⟨sext_of_msb_true, sext_of_msb_false, fun hlt => ?low, fun hge => ?high, ?signed⟩
  case low => exact toNat_sext_of_msb_false hn (by simpa [BitVec.msb_eq_decide] using hlt)
  case high => exact toNat_sext_of_msb_true hn (by simpa [BitVec.msb_eq_decide] using hge)
  case signed => rw [sext_eq_signExtend, BitVec.toInt_signExtend_of_le hn]

end Sys2Proof.Machine

/-! The immediate forms of ADD and AND (40_operate.md R111, R113): the words of their format decode to them, what
`State.define` shows in the words of the statements, and the two statements settled from it. -/

namespace Sys2Proof.Machine

/-! ## The words of the immediate forms -/

section
variable (op : BitVec 4) (dr sr1 : BitVec 3) (m : BitVec 1) (imm5 : BitVec 5)

theorem regAt9_fields_4_3_3_1_5 : regAt9 (op ++ dr ++ sr1 ++ m ++ imm5) = Reg.ofBits dr :=
  congrArg Reg.ofBits (fields_4_3_3_1_5_a op dr sr1 m imm5)

theorem regAt6_fields_4_3_3_1_5 : regAt6 (op ++ dr ++ sr1 ++ m ++ imm5) = Reg.ofBits sr1 :=
  congrArg Reg.ofBits (fields_4_3_3_1_5_b op dr sr1 m imm5)

theorem decode_addImm_word :
    decode (0b0001#4 ++ dr ++ sr1 ++ 0b1#1 ++ imm5) = .addImm (Reg.ofBits dr) (Reg.ofBits sr1) imm5 := by
  rw [decode_addImm (fields_4_3_3_1_5_op ..) (fields_4_3_3_1_5_m ..), regAt9_fields_4_3_3_1_5,
    regAt6_fields_4_3_3_1_5, fields_4_3_3_1_5_c]

theorem decode_andImm_word :
    decode (0b0101#4 ++ dr ++ sr1 ++ 0b1#1 ++ imm5) = .andImm (Reg.ofBits dr) (Reg.ofBits sr1) imm5 := by
  rw [decode_andImm (fields_4_3_3_1_5_op ..) (fields_4_3_3_1_5_m ..), regAt9_fields_4_3_3_1_5,
    regAt6_fields_4_3_3_1_5, fields_4_3_3_1_5_c]

end

/-! ## The definition of a register -/

theorem State.definesOnly_define (s : State) (dr : Reg) (v : Word) : DefinesOnly dr v s (s.define dr v) :=
  ⟨State.reg_define_self s dr v, fun _ hx => State.reg_define_of_ne s v hx, flagsShow_of_cond (State.define_cond s dr v),
    State.define_pc s dr v, fun a => congrArg (Memory.read · a) (State.define_mem s dr v),
    ⟨State.define_kbd s dr v, State.define_out s dr v, State.define_arrivals s dr v⟩,
    ⟨State.define_run s dr v, State.define_fault s dr v, State.define_held s dr v⟩⟩

theorem exec_addImm (dr sr1 : Reg) (imm5 : BitVec 5) (s : State) :
    exec (.addImm dr sr1 imm5) s = .next (s.define dr (s.reg sr1 + sext imm5)) := rfl

theorem exec_andImm (dr sr1 : Reg) (imm5 : BitVec 5) (s : State) :
    exec (.andImm dr sr1 imm5) s = .next (s.define dr (s.reg sr1 &&& sext imm5)) := rfl

/-! ## The statements -/

/-- Settles O16: the selectors of the word lead to the immediate form of ADD, which defines `dr` with the sum. -/
theorem addImmediateFormAddsTheSignExtendedImmediate : Obligations.AddImmediateFormAddsTheSignExtendedImmediate := by
  intro dr sr1 imm5 s
  exact ⟨decode_addImm_word dr sr1 imm5, _, exec_addImm _ _ imm5 s, State.definesOnly_define s _ _⟩

/-- Settles O18: the selectors of the word lead to the immediate form of AND, which defines `dr` with the bitwise and. -/
theorem andImmediateFormAndsTheSignExtendedImmediate : Obligations.AndImmediateFormAndsTheSignExtendedImmediate := by
  intro dr sr1 imm5 s
  exact ⟨decode_andImm_word dr sr1 imm5, _, exec_andImm _ _ imm5 s, State.definesOnly_define s _ _⟩

end Sys2Proof.Machine

/-! The words of the load and store formats F-PC9 and F-BASE6 (30_encoding.md R84): those of opcodes 2, 3, 10, 11 and 14,
and of 6 and 7, decode to their instruction with the fields as written. -/

namespace Sys2Proof

section
variable (op : BitVec 4) (a : BitVec 3) (off : BitVec 9)

theorem regAt9_fields_4_3_9 : regAt9 (op ++ a ++ off) = Reg.ofBits a :=
  congrArg Reg.ofBits (fields_4_3_9_a op a off)

theorem decode_ld_word : decode (0b0010#4 ++ a ++ off) = .ld (Reg.ofBits a) off := by
  rw [decode_ld (fields_4_3_9_op ..), regAt9_fields_4_3_9, fields_4_3_9_b]

theorem decode_ldi_word : decode (0b1010#4 ++ a ++ off) = .ldi (Reg.ofBits a) off := by
  rw [decode_ldi (fields_4_3_9_op ..), regAt9_fields_4_3_9, fields_4_3_9_b]

theorem decode_lea_word : decode (0b1110#4 ++ a ++ off) = .lea (Reg.ofBits a) off := by
  rw [decode_lea (fields_4_3_9_op ..), regAt9_fields_4_3_9, fields_4_3_9_b]

theorem decode_st_word : decode (0b0011#4 ++ a ++ off) = .st (Reg.ofBits a) off := by
  rw [decode_st (fields_4_3_9_op ..), regAt9_fields_4_3_9, fields_4_3_9_b]

theorem decode_sti_word : decode (0b1011#4 ++ a ++ off) = .sti (Reg.ofBits a) off := by
  rw [decode_sti (fields_4_3_9_op ..), regAt9_fields_4_3_9, fields_4_3_9_b]

end

section
variable (op : BitVec 4) (a baseR : BitVec 3) (off : BitVec 6)

theorem regAt9_fields_4_3_3_6 : regAt9 (op ++ a ++ baseR ++ off) = Reg.ofBits a :=
  congrArg Reg.ofBits (fields_4_3_3_6_a op a baseR off)

theorem regAt6_fields_4_3_3_6 : regAt6 (op ++ a ++ baseR ++ off) = Reg.ofBits baseR :=
  congrArg Reg.ofBits (fields_4_3_3_6_b op a baseR off)

theorem decode_ldr_word :
    decode (0b0110#4 ++ a ++ baseR ++ off) = .ldr (Reg.ofBits a) (Reg.ofBits baseR) off := by
  rw [decode_ldr (fields_4_3_3_6_op ..), regAt9_fields_4_3_3_6, regAt6_fields_4_3_3_6, fields_4_3_3_6_c]

theorem decode_str_word :
    decode (0b0111#4 ++ a ++ baseR ++ off) = .str (Reg.ofBits a) (Reg.ofBits baseR) off := by
  rw [decode_str (fields_4_3_3_6_op ..), regAt9_fields_4_3_3_6, regAt6_fields_4_3_3_6, fields_4_3_3_6_c]

end

end Sys2Proof

/-! The loads and LEA (41_load_store.md R120 to R123): what a load through `MemRead` shows in the words of the statements,
also after the access that read its pointer, and the four statements settled from it. -/

namespace Sys2Proof.Machine

/-! ## What a memory access leaves alone -/

theorem State.sameRegs_memRead (s : State) (a : Word) : SameRegs s (s.memRead a).2 := State.reg_memRead s a

theorem State.sameRunState_memRead (s : State) (a : Word) : SameRunState s (s.memRead a).2 :=
  ⟨State.memRead_run s a, State.memRead_fault s a, State.memRead_held s a⟩

theorem SameRegs.trans {s t u : State} (h : SameRegs s t) (h' : SameRegs t u) : SameRegs s u :=
  fun x => (h' x).trans (h x)

theorem SameRegs.trans_except {s t u : State} {d : Reg} (h : SameRegs s t) (h' : SameRegsExcept d t u) :
    SameRegsExcept d s u :=
  fun x hx => (h' x hx).trans (h x)

theorem SameRunState.trans {s t u : State} (h : SameRunState s t) (h' : SameRunState t u) : SameRunState s u := by
  obtain ⟨hrun, hfault, hheld⟩ := h
  obtain ⟨hrun', hfault', hheld'⟩ := h'
  exact ⟨hrun'.trans hrun, hfault'.trans hfault, hheld'.trans hheld⟩

/-! ## A load -/

section
variable (s : State) (dr : Reg)

/-- The access, then the definition of `dr` in the state it leaves. -/
theorem State.loadsOnly_loadFrom (ea : Word) : LoadsOnly dr ea s (s.loadFrom dr ea) := by
  obtain ⟨hv, hregs, hflags, hpc, hmem, ⟨hkbd, hout, harrivals⟩, hrun⟩ :
      DefinesOnly dr (s.memRead ea).1 (s.memRead ea).2 (s.loadFrom dr ea) := State.definesOnly_define _ dr _
  refine ⟨hv, (s.sameRegs_memRead ea).trans_except hregs, hv.symm ▸ hflags, hpc.trans (State.memRead_pc s ea), hmem, hkbd,
    hout.trans (State.memRead_out s ea), harrivals.trans (State.memRead_arrivals s ea),
    (s.sameRunState_memRead ea).trans hrun, fun hne => ?_⟩
  rw [State.memRead_of_ne s hne] at hv hmem hkbd
  exact ⟨hv, hmem, hkbd⟩

theorem exec_ld (off : BitVec 9) : exec (.ld dr off) s = .next (s.loadFrom dr (s.pc + sext off)) := rfl

theorem exec_ldi (off : BitVec 9) :
    exec (.ldi dr off) s =
      .next ((s.memRead (s.pc + sext off)).2.loadFrom dr (s.memRead (s.pc + sext off)).1) := rfl

theorem exec_ldr (baseR : Reg) (off : BitVec 6) :
    exec (.ldr dr baseR off) s = .next (s.loadFrom dr (s.reg baseR + sext off)) := rfl

theorem exec_lea (off : BitVec 9) : exec (.lea dr off) s = .next (s.define dr (s.pc + sext off)) := rfl

end

/-! ## The statements -/

/-- Settles O20: the word decodes to LD, a load from the PC-relative address. -/
theorem ldLoadsFromThePcRelativeAddress : Obligations.LdLoadsFromThePcRelativeAddress := by
  intro dr off s
  exact ⟨decode_ld_word dr off, _, exec_ld s _ off, s.loadsOnly_loadFrom _ _⟩

/-- Settles O21: the second access is a load in the state the first leaves; what it leaves alone is as before the first,
which away from `KBSR` leaves the state itself and returns the plain cell. -/
theorem ldiLoadsThroughThePointerCell : Obligations.LdiLoadsThroughThePointerCell := by
  intro dr off s
  refine ⟨decode_ldi_word dr off, _, exec_ldi s _ off, ?_⟩
  generalize s.pc + sext off = a
  have hload := (s.memRead a).2.loadsOnly_loadFrom (Reg.ofBits dr) (s.memRead a).1
  have ⟨_, hregs, _, hpc, _, _, hout, harrivals, hrun, _⟩ := hload
  refine ⟨hload, (s.sameRegs_memRead a).trans_except hregs, hpc.trans (State.memRead_pc s a),
    hout.trans (State.memRead_out s a), harrivals.trans (State.memRead_arrivals s a),
    (s.sameRunState_memRead a).trans hrun, fun hne => ?_⟩
  rw [State.memRead_of_ne s hne]
  exact s.loadsOnly_loadFrom _ _

/-- Settles O22: the word decodes to LDR, a load from base plus offset; the base is read before the load. -/
theorem ldrLoadsFromBasePlusOffset : Obligations.LdrLoadsFromBasePlusOffset := by
  intro dr baseR off s
  exact ⟨decode_ldr_word dr baseR off, _, exec_ldr s _ _ off, s.loadsOnly_loadFrom _ _⟩

/-- Settles O23: the word decodes to LEA, which defines `dr` with the address and makes no access. -/
theorem leaLoadsTheAddressAndSetsTheFlags : Obligations.LeaLoadsTheAddressAndSetsTheFlags := by
  intro dr off s
  exact ⟨decode_lea_word dr off, _, exec_lea s _ off, s.definesOnly_define _ _⟩

end Sys2Proof.Machine

/-! The stores (41_load_store.md R124 to R126): `MemWrite` in the words of the statements, also after the access that read
its pointer, and the three statements settled from it. -/

namespace Sys2Proof.Machine

/-! ## A store -/

section
variable (s : State) (sr : Reg)

theorem State.storesOnly_memWrite (ea v : Word) : StoresOnly ea v s (s.memWrite ea v) :=
  ⟨s.read_memWrite_self ea v, s.sameMemoryExcept_memWrite ea v, s.sameRegs_memWrite ea v, State.memWrite_cond s ea v,
    State.memWrite_pc s ea v, s.sameTerminal_memWrite ea v, s.sameRunState_memWrite ea v⟩

theorem exec_st (off : BitVec 9) : exec (.st sr off) s = .next (s.memWrite (s.pc + sext off) (s.reg sr)) := rfl

/-- The register is read after the pointer, and the pointer's access leaves it alone. -/
theorem exec_sti (off : BitVec 9) :
    exec (.sti sr off) s =
      .next ((s.memRead (s.pc + sext off)).2.memWrite (s.memRead (s.pc + sext off)).1 (s.reg sr)) := by
  rw [← State.reg_memRead s (s.pc + sext off) sr]
  rfl

theorem exec_str (baseR : Reg) (off : BitVec 6) :
    exec (.str sr baseR off) s = .next (s.memWrite (s.reg baseR + sext off) (s.reg sr)) := rfl

end

/-! ## The statements -/

/-- Settles O24: the word decodes to ST, a store at the PC-relative address. -/
theorem stStoresAtThePcRelativeAddress : Obligations.StStoresAtThePcRelativeAddress := by
  intro sr off s
  exact ⟨decode_st_word sr off, _, exec_st s _ off, s.storesOnly_memWrite _ _⟩

/-- Settles O25: the write is a store in the state the pointer's read leaves; what it leaves alone is as before that read,
which away from `KBSR` leaves the state itself and returns the plain cell. -/
theorem stiStoresThroughThePointerCell : Obligations.StiStoresThroughThePointerCell := by
  intro sr off s
  refine ⟨decode_sti_word sr off, _, exec_sti s _ off, ?_⟩
  generalize s.pc + sext off = a
  have hstore := (s.memRead a).2.storesOnly_memWrite (s.memRead a).1 (s.reg (Reg.ofBits sr))
  have ⟨_, _, hregs, hcond, hpc, ⟨_, hout, harrivals⟩, hrun⟩ := hstore
  refine ⟨hstore, (s.sameRegs_memRead a).trans hregs, hcond.trans (State.memRead_cond s a),
    hpc.trans (State.memRead_pc s a), hout.trans (State.memRead_out s a),
    harrivals.trans (State.memRead_arrivals s a), (s.sameRunState_memRead a).trans hrun, fun hne => ?_⟩
  rw [State.memRead_of_ne s hne]
  exact s.storesOnly_memWrite _ _

/-- Settles O26: the word decodes to STR, a store at base plus offset; the store writes no register. -/
theorem strStoresAtBasePlusOffset : Obligations.StrStoresAtBasePlusOffset := by
  intro sr baseR off s
  exact ⟨decode_str_word sr baseR off, _, exec_str s _ _ off, s.storesOnly_memWrite _ _⟩

end Sys2Proof.Machine

/-! JSR (42_control.md R142): the words of its format decode to it, what a link and a jump show in the words of the
statements, and the statement settled from them. -/

namespace Sys2Proof.Machine

/-! ## The words of JSR -/

theorem decode_jsr_word (off : BitVec 11) : decode (0b0100#4 ++ 0b1#1 ++ off) = .jsr off := by
  rw [decode_jsr (fields_4_1_11_op ..) (fields_4_1_11_m ..), fields_4_1_11_a]

/-! ## A link and a jump -/

section
variable (s : State)

/-- The link is a write of `R7`, and the jump touches `PC` alone. -/
theorem State.callsOnly_setPc_link (v : Word) : CallsOnly v s (s.link.setPc v) :=
  ⟨State.setPc_pc s.link v, State.reg_link_r7 s, s.sameRegsExcept_setReg .r7 s.pc, State.link_cond s,
    fun a => congrArg (Memory.read · a) (State.link_mem s), s.sameTerminal_setReg .r7 s.pc,
    s.sameRunState_setReg .r7 s.pc⟩

/-- The target is formed after the link, which leaves `PC` as it is. -/
theorem exec_jsr (off : BitVec 11) : exec (.jsr off) s = .next (s.link.setPc (s.pc + sext off)) := by
  rw [← State.link_pc s]
  rfl

end

/-! ## The statement -/

/-- Settles O29: the word decodes to JSR, a link and a jump to the target relative to the incremented PC. -/
theorem jsrLinksAndJumpsPcRelative : Obligations.JsrLinksAndJumpsPcRelative := by
  intro off s
  exact ⟨decode_jsr_word off, _, exec_jsr s off, s.callsOnly_setPc_link _⟩

end Sys2Proof.Machine

/-! The words of the formats F-BR, F-OPR, F-JSRR, F-NOT, F-JMP, F-NONE and of TRAP (30_encoding.md R84) decode to their
instruction, whatever their ignored bits; with the formats read before that is every encoding, and the statement that
`decode` undoes `encode` is settled from it. -/

namespace Sys2Proof

/-! ## The words of the formats -/

theorem decode_br_word (cond : BitVec 3) (off : BitVec 9) : decode (0b0000#4 ++ cond ++ off) = .br cond off := by
  rw [decode_br (fields_4_3_9_op ..), fields_4_3_9_a, fields_4_3_9_b]

section
variable (op : BitVec 4) (dr sr1 : BitVec 3) (m : BitVec 1) (x : BitVec 2) (sr2 : BitVec 3)

theorem regAt9_fields_4_3_3_1_2_3 : regAt9 (op ++ dr ++ sr1 ++ m ++ x ++ sr2) = Reg.ofBits dr :=
  congrArg Reg.ofBits (fields_4_3_3_1_2_3_a op dr sr1 m x sr2)

theorem regAt6_fields_4_3_3_1_2_3 : regAt6 (op ++ dr ++ sr1 ++ m ++ x ++ sr2) = Reg.ofBits sr1 :=
  congrArg Reg.ofBits (fields_4_3_3_1_2_3_b op dr sr1 m x sr2)

theorem regAt0_fields_4_3_3_1_2_3 : regAt0 (op ++ dr ++ sr1 ++ m ++ x ++ sr2) = Reg.ofBits sr2 :=
  congrArg Reg.ofBits (fields_4_3_3_1_2_3_c op dr sr1 m x sr2)

theorem decode_addReg_word :
    decode (0b0001#4 ++ dr ++ sr1 ++ 0b0#1 ++ x ++ sr2) =
      .addReg (Reg.ofBits dr) (Reg.ofBits sr1) (Reg.ofBits sr2) := by
  rw [decode_addReg (fields_4_3_3_1_2_3_op ..) (fields_4_3_3_1_2_3_m ..), regAt9_fields_4_3_3_1_2_3,
    regAt6_fields_4_3_3_1_2_3, regAt0_fields_4_3_3_1_2_3]

theorem decode_andReg_word :
    decode (0b0101#4 ++ dr ++ sr1 ++ 0b0#1 ++ x ++ sr2) =
      .andReg (Reg.ofBits dr) (Reg.ofBits sr1) (Reg.ofBits sr2) := by
  rw [decode_andReg (fields_4_3_3_1_2_3_op ..) (fields_4_3_3_1_2_3_m ..), regAt9_fields_4_3_3_1_2_3,
    regAt6_fields_4_3_3_1_2_3, regAt0_fields_4_3_3_1_2_3]

end

theorem decode_notReg_word (dr sr : BitVec 3) (x : BitVec 6) :
    decode (0b1001#4 ++ dr ++ sr ++ x) = .notReg (Reg.ofBits dr) (Reg.ofBits sr) := by
  rw [decode_notReg (fields_4_3_3_6_op ..), regAt9_fields_4_3_3_6, regAt6_fields_4_3_3_6]

theorem decode_jmp_word (x baseR : BitVec 3) (y : BitVec 6) :
    decode (0b1100#4 ++ x ++ baseR ++ y) = .jmp (Reg.ofBits baseR) := by
  rw [decode_jmp (fields_4_3_3_6_op ..), regAt6_fields_4_3_3_6]

theorem decode_jsrr_word (x : BitVec 2) (baseR : BitVec 3) (y : BitVec 6) :
    decode (0b0100#4 ++ 0b0#1 ++ x ++ baseR ++ y) = .jsrr (Reg.ofBits baseR) :=
  (decode_jsrr (fields_4_1_2_3_6_op ..) (fields_4_1_2_3_6_m ..)).trans
    (congrArg (fun b => Instr.jsrr (Reg.ofBits b)) (fields_4_1_2_3_6_a 0b0100#4 0b0#1 x baseR y))

theorem decode_rti_word (x : BitVec 12) : decode (0b1000#4 ++ x) = .rti := decode_rti (fields_4_12_op ..)

theorem decode_res_word (x : BitVec 12) : decode (0b1101#4 ++ x) = .res := decode_res (fields_4_12_op ..)

theorem decode_trap_word (x : BitVec 4) (vec : BitVec 8) : decode (0b1111#4 ++ x ++ vec) = decodeTrap vec := by
  rw [decode_trap (fields_4_4_8_op ..), fields_4_4_8_a]

/-! ## Encodings -/

/-- For each instruction its word, with the ignored bits as `encode` fills them. -/
theorem decode_encode {i : Instr} (hi : wellFormed i = true) : decode (encode i) = i := by
  cases i with
  | br cond off => exact decode_br_word cond off
  | addReg dr sr1 sr2 => exact (decode_addReg_word dr.toBits sr1.toBits 0b00#2 sr2.toBits).trans (by simp)
  | addImm dr sr1 imm => exact (Machine.decode_addImm_word dr.toBits sr1.toBits imm).trans (by simp)
  | ld dr off => exact (decode_ld_word dr.toBits off).trans (by simp)
  | st sr off => exact (decode_st_word sr.toBits off).trans (by simp)
  | jsr off => exact Machine.decode_jsr_word off
  | jsrr base => exact (decode_jsrr_word 0b00#2 base.toBits 0b000000#6).trans (by simp)
  | andReg dr sr1 sr2 => exact (decode_andReg_word dr.toBits sr1.toBits 0b00#2 sr2.toBits).trans (by simp)
  | andImm dr sr1 imm => exact (Machine.decode_andImm_word dr.toBits sr1.toBits imm).trans (by simp)
  | ldr dr base off => exact (decode_ldr_word dr.toBits base.toBits off).trans (by simp)
  | str sr base off => exact (decode_str_word sr.toBits base.toBits off).trans (by simp)
  | rti => exact decode_rti_word 0b000000000000#12
  | notReg dr sr => exact (decode_notReg_word dr.toBits sr.toBits 0b111111#6).trans (by simp)
  | ldi dr off => exact (decode_ldi_word dr.toBits off).trans (by simp)
  | sti sr off => exact (decode_sti_word sr.toBits off).trans (by simp)
  | jmp base => exact (decode_jmp_word 0b000#3 base.toBits 0b000000#6).trans (by simp)
  | res => exact decode_res_word 0b000000000000#12
  | lea dr off => exact (decode_lea_word dr.toBits off).trans (by simp)
  | trapGetc => exact decode_trap_word 0b0000#4 0x20#8
  | trapOut => exact decode_trap_word 0b0000#4 0x21#8
  | trapPuts => exact decode_trap_word 0b0000#4 0x22#8
  | trapIn => exact decode_trap_word 0b0000#4 0x23#8
  | trapPutsp => exact decode_trap_word 0b0000#4 0x24#8
  | trapHalt => exact decode_trap_word 0b0000#4 0x25#8
  | trap vec =>
    have hvec : servedVector vec = false := by simpa [wellFormed] using hi
    exact (decode_trap_word 0b0000#4 vec).trans (decodeTrap_unserved vec hvec)

/-! ## Words by their instruction -/

theorem and_mask_of_decode {w : Word} {i : Instr} (h : decode w = i) : w &&& i.row.mask = i.row.value :=
  h ▸ Row.matchesWord_iff.mp (matchesWord_row_decode w)

theorem opcode_of_and_F000 {w v : Word} (h : w &&& 0xF000#16 = v) : w.extractLsb' 12 4 = v.extractLsb' 12 4 := by
  subst h
  rw [BitVec.extractLsb'_and]
  exact BitVec.and_allOnes.symm

theorem decode_trap_of_and_F000 {w : Word} (h : w &&& 0xF000#16 = 0xF000#16) :
    decode w = decodeTrap (w.extractLsb' 0 8) :=
  decode_trap (opcode_of_and_F000 h)

/-- Only opcode 15 has an ill-formed kind of term, and its decoder gives none. -/
theorem wellFormed_decode (w : Word) : wellFormed (decode w) = true := by
  cases h : decode w with
  | trap vec =>
    rw [← h, decode_trap_of_and_F000 (and_mask_of_decode h)]
    exact wellFormed_decodeTrap _
  | _ => rfl

/-- Settles O10: by the words of the formats, and since opcode 15 decodes to the fallback only for unserved vectors. -/
theorem decodeOfEncodeIsTheInstruction : Obligations.DecodeOfEncodeIsTheInstruction :=
  ⟨fun _ => decode_encode, wellFormed_decode⟩

end Sys2Proof

/-! The bits the decoder does not read (30_encoding.md section 4, R85), and the statement settled from it: a field that holds
no ignored bit is the same after a change of ignored bits. -/

namespace Sys2Proof

/-! ## A change of ignored bits -/

section
variable {w x m : Word} (hx : x &&& ~~~m = 0x0000#16)
include hx

theorem and_mask_of_ignored : x &&& m = x := by
  ext i hi
  have hbit : (x &&& ~~~m)[i] = false := by simp [hx]
  simpa using hbit

theorem xor_of_none_ignored (hm : m = 0x0000#16) : w ^^^ x = w := by
  rw [← and_mask_of_ignored hx, hm, BitVec.and_zero, BitVec.xor_zero]

theorem extractLsb'_xor_of_ignored {start len : Nat} (hm : m.extractLsb' start len = 0#len) :
    (w ^^^ x).extractLsb' start len = w.extractLsb' start len := by
  rw [← and_mask_of_ignored hx, BitVec.extractLsb'_xor, BitVec.extractLsb'_and, hm, BitVec.and_zero, BitVec.xor_zero]

theorem regAt9_xor_of_ignored (hm : m.extractLsb' 9 3 = 0#3) : regAt9 (w ^^^ x) = regAt9 w :=
  congrArg Reg.ofBits (extractLsb'_xor_of_ignored hx hm)

theorem regAt6_xor_of_ignored (hm : m.extractLsb' 6 3 = 0#3) : regAt6 (w ^^^ x) = regAt6 w :=
  congrArg Reg.ofBits (extractLsb'_xor_of_ignored hx hm)

theorem regAt0_xor_of_ignored (hm : m.extractLsb' 0 3 = 0#3) : regAt0 (w ^^^ x) = regAt0 w :=
  congrArg Reg.ofBits (extractLsb'_xor_of_ignored hx hm)

end

/-- No bit of the opcode field is ignored. -/
theorem opcode_ignoredBits (i : Instr) : (ignoredBits i).extractLsb' 12 4 = 0#4 := by
  cases i <;> simp [ignoredBits]

theorem ignoredBits_decodeTrap (vec : BitVec 8) : ignoredBits (decodeTrap vec) = 0x0F00#16 := by
  unfold decodeTrap
  split_ifs <;> rfl

/-! ## The statement -/

/-- Settles O9: by the opcode map, whose selectors are no ignored bits. A row without ignored bits admits no change; in any
other each field the row reads is the same. -/
theorem ignoredBitsDoNotChangeTheInstruction : Obligations.IgnoredBitsDoNotChangeTheInstruction := by
  intro w x hx
  have hop : (w ^^^ x).extractLsb' 12 4 = w.extractLsb' 12 4 := extractLsb'_xor_of_ignored hx (opcode_ignoredBits _)
  have hnone (hm : ignoredBits (decode w) = 0x0000#16) : decode (w ^^^ x) = decode w := by
    rw [xor_of_none_ignored hx hm]
  rcases opcode_cases (w.extractLsb' 12 4) with h | h | h | h | h | h | h | h | h | h | h | h | h | h | h | h
  · exact hnone (by rw [decode_br h]; rfl)
  · rcases BitVec.eq_zero_or_eq_one (w.extractLsb' 5 1) with hs | hs
    · rw [decode_addReg h hs] at hx ⊢
      change x &&& ~~~0x0018#16 = 0x0000#16 at hx
      rw [decode_addReg (hop.trans h) ((extractLsb'_xor_of_ignored hx (by decide)).trans hs),
        regAt9_xor_of_ignored hx (by decide), regAt6_xor_of_ignored hx (by decide), regAt0_xor_of_ignored hx (by decide)]
    · exact hnone (by rw [decode_addImm h hs]; rfl)
  · exact hnone (by rw [decode_ld h]; rfl)
  · exact hnone (by rw [decode_st h]; rfl)
  · rcases BitVec.eq_zero_or_eq_one (w.extractLsb' 11 1) with hs | hs
    · rw [decode_jsrr h hs] at hx ⊢
      change x &&& ~~~0x063F#16 = 0x0000#16 at hx
      rw [decode_jsrr (hop.trans h) ((extractLsb'_xor_of_ignored hx (by decide)).trans hs),
        regAt6_xor_of_ignored hx (by decide)]
    · exact hnone (by rw [decode_jsr h hs]; rfl)
  · rcases BitVec.eq_zero_or_eq_one (w.extractLsb' 5 1) with hs | hs
    · rw [decode_andReg h hs] at hx ⊢
      change x &&& ~~~0x0018#16 = 0x0000#16 at hx
      rw [decode_andReg (hop.trans h) ((extractLsb'_xor_of_ignored hx (by decide)).trans hs),
        regAt9_xor_of_ignored hx (by decide), regAt6_xor_of_ignored hx (by decide), regAt0_xor_of_ignored hx (by decide)]
    · exact hnone (by rw [decode_andImm h hs]; rfl)
  · exact hnone (by rw [decode_ldr h]; rfl)
  · exact hnone (by rw [decode_str h]; rfl)
  · rw [decode_rti h, decode_rti (hop.trans h)]
  · rw [decode_notReg h] at hx ⊢
    change x &&& ~~~0x003F#16 = 0x0000#16 at hx
    rw [decode_notReg (hop.trans h), regAt9_xor_of_ignored hx (by decide), regAt6_xor_of_ignored hx (by decide)]
  · exact hnone (by rw [decode_ldi h]; rfl)
  · exact hnone (by rw [decode_sti h]; rfl)
  · rw [decode_jmp h] at hx ⊢
    change x &&& ~~~0x0E3F#16 = 0x0000#16 at hx
    rw [decode_jmp (hop.trans h), regAt6_xor_of_ignored hx (by decide)]
  · rw [decode_res h, decode_res (hop.trans h)]
  · exact hnone (by rw [decode_lea h]; rfl)
  · rw [decode_trap h, ignoredBits_decodeTrap] at hx
    rw [decode_trap h, decode_trap (hop.trans h), extractLsb'_xor_of_ignored hx (by decide)]

/-- Settles O11: each word is a closed term, and the decoder computes. -/
theorem wordsOfTheSpecDecodeToTheirInstructions : Obligations.WordsOfTheSpecDecodeToTheirInstructions := by
  unfold Obligations.WordsOfTheSpecDecodeToTheirInstructions
  decide

end Sys2Proof

/-! What `exec` can do to a state, said once: the answer of each instruction as an update of the state, the accesses that
poll the keyboard, and the effects of the instructions by kind. -/

namespace Sys2Proof.Machine

/-! ## The answer of each instruction

The other instructions stand with the statements about them. -/

section
variable (s : State)

theorem exec_br (cond : BitVec 3) (off : BitVec 9) :
    exec (.br cond off) s = .next (if s.condMet cond then s.setPc (s.pc + sext off) else s) := rfl

theorem exec_addReg (dr sr1 sr2 : Reg) :
    exec (.addReg dr sr1 sr2) s = .next (s.define dr (s.reg sr1 + s.reg sr2)) := rfl

theorem exec_jsrr (baseR : Reg) : exec (.jsrr baseR) s = .next (s.link.setPc (s.link.reg baseR)) := rfl

theorem exec_andReg (dr sr1 sr2 : Reg) :
    exec (.andReg dr sr1 sr2) s = .next (s.define dr (s.reg sr1 &&& s.reg sr2)) := rfl

theorem exec_rti : exec .rti s = .next (s.raise (.decodeFault 8#4)) := rfl

theorem exec_notReg (dr sr : Reg) : exec (.notReg dr sr) s = .next (s.define dr (~~~ s.reg sr)) := rfl

theorem exec_jmp (baseR : Reg) : exec (.jmp baseR) s = .next (s.setPc (s.reg baseR)) := rfl

theorem exec_res : exec .res s = .next (s.raise (.decodeFault 13#4)) := rfl

/-- `R0` is read after the link, which leaves it alone. -/
theorem exec_trapOut : exec .trapOut s = .next (s.link.writeChar (lowByte (s.reg .r0))) := rfl

theorem exec_trapHalt : exec .trapHalt s = .next ((s.link.writeChars Config.haltNotice).setRun .halted) := rfl

theorem exec_trap (vec : BitVec 8) : exec (.trap vec) s = .next (s.link.raise (.trapFault vec)) := rfl

/-! ## The routines that can be held -/

/-- The TRAP instruction whose routine a held instruction goes on with. -/
def Held.instr (h : Held) : Instr :=
  match h with
  | .getc => .trapGetc
  | .inChar => .trapIn
  | .puts => .trapPuts
  | .putsp => .trapPutsp

/-- What the routine writes once, before its read or walk. -/
def Held.prompt (h : Held) : List Byte :=
  match h with
  | .getc => []
  | .inChar => Config.inPrompt
  | .puts => []
  | .putsp => []

/-- What the routine writes after it has read a byte. -/
def Held.echo (h : Held) (b : Byte) : List Byte :=
  match h with
  | .getc => []
  | .inChar => [b]
  | .puts => []
  | .putsp => []

/-- The routine reads the keyboard: it is held for want of a byte, the others for want of a zero word. -/
def Held.readsKey (h : Held) : Bool :=
  match h with
  | .getc => true
  | .inChar => true
  | .puts => false
  | .putsp => false

/-- The bytes a string routine writes for the words it walks over. -/
def Held.bytes (h : Held) (ws : List Word) : List Byte :=
  match h with
  | .getc => []
  | .inChar => []
  | .puts => putsBytes ws
  | .putsp => putspBytes ws

@[simp] theorem State.writeChars_nil : s.writeChars [] = s := by simp [State.writeChars, State.setOut]

/-- Each of the four is the entry, the prompt, and then what a held one goes on with. -/
theorem exec_instr (h : Held) : exec h.instr s = resume h (s.link.writeChars h.prompt) := by
  cases h with
  | inChar => rfl
  | _ => rw [Held.prompt, State.writeChars_nil]; rfl

theorem resume_empty {h : Held} (hh : h.readsKey = true) {s : State} (hk : s.kbd = []) :
    resume h s = .next (s.setHeld (some h)) := by
  cases h with
  | getc => exact congrArg _ (State.getcRead_nil hk)
  | inChar => exact congrArg _ (State.inRead_nil hk)
  | _ => cases hh

theorem resume_key {h : Held} (hh : h.readsKey = true) {s : State} {b : Byte} {rest : List Byte}
    (hk : s.kbd = b :: rest) :
    resume h s = .next ((((s.setKbd rest).writeChars (h.echo b)).define .r0 (zext8 b)).setHeld none) := by
  cases h with
  | getc => rw [Held.echo, State.writeChars_nil]; exact congrArg _ (State.getcRead_cons hk)
  | inChar => exact congrArg _ (State.inRead_cons hk)
  | _ => cases hh

theorem resume_walk {h : Held} (hh : h.readsKey = false) :
    resume h s =
      .next ((s.writeChars (h.bytes (s.walk memoryWords (s.reg .r0)).1)).setHeld
        (if (s.walk memoryWords (s.reg .r0)).2 then none else some h)) := by
  cases h with
  | puts => rfl
  | putsp => rfl
  | _ => cases hh

end

/-- What a routine can do from its read or walk on: wait for a byte, take one, or walk over a string. -/
inductive RoutineEffect (h : Held) (s : State) : State → Prop where
  | waits (hh : h.readsKey = true) (hk : s.kbd = []) : RoutineEffect h s (s.setHeld (some h))
  | takesKey (hh : h.readsKey = true) {b : Byte} {rest : List Byte} (hk : s.kbd = b :: rest) :
      RoutineEffect h s ((((s.setKbd rest).writeChars (h.echo b)).define .r0 (zext8 b)).setHeld none)
  | walks (hh : h.readsKey = false) (bs : List Byte) {held : Option Held} (hheld : held = none ∨ held = some h) :
      RoutineEffect h s ((s.writeChars bs).setHeld held)

theorem resume_effect (h : Held) (s : State) : ∃ t, resume h s = .next t ∧ RoutineEffect h s t := by
  cases hh : h.readsKey with
  | true =>
    cases hk : s.kbd with
    | nil => exact ⟨_, resume_empty hh hk, .waits hh hk⟩
    | cons b rest => exact ⟨_, resume_key hh hk, .takesKey hh hk⟩
  | false =>
    refine ⟨_, resume_walk s hh, .walks hh _ ?_⟩
    split
    · exact .inl rfl
    · exact .inr rfl

/-! ## Accesses that poll -/

/-- Nothing changed but what polls of the keyboard change: the two device cells, and bytes taken from the queue. -/
structure PollsOnly (s t : State) : Prop where
  frame : t = { s with mem := t.mem, kbd := t.kbd }
  read : ∀ a : Word, a ≠ kbsr → a ≠ kbdr → t.mem.read a = s.mem.read a
  wf : s.mem.wf = true → t.mem.wf = true
  kbd : ∃ used, s.kbd = used ++ t.kbd

theorem PollsOnly.refl (s : State) : PollsOnly s s := ⟨rfl, fun _ _ _ => rfl, id, [], rfl⟩

theorem PollsOnly.trans {s t u : State} (h : PollsOnly s t) (h' : PollsOnly t u) : PollsOnly s u where
  frame := by
    obtain ⟨m, k, rfl⟩ : ∃ m k, t = { s with mem := m, kbd := k } := ⟨_, _, h.frame⟩
    exact h'.frame
  read a h₁ h₂ := (h'.read a h₁ h₂).trans (h.read a h₁ h₂)
  wf hs := h'.wf (h.wf hs)
  kbd := by
    obtain ⟨used, hu⟩ := h.kbd
    obtain ⟨used', hu'⟩ := h'.kbd
    exact ⟨used ++ used', by rw [hu, hu', List.append_assoc]⟩

theorem State.pollsOnly_memRead (s : State) (a : Word) : PollsOnly s (s.memRead a).2 where
  frame := s.memRead_frame a
  read b h₁ h₂ := by
    rw [State.memRead_state]
    split
    · exact s.read_poll_of_ne h₁ h₂
    · rfl
  wf := State.wf_memRead a
  kbd := by
    rw [State.memRead_kbd]
    split
    · exact ⟨s.kbd.take 1, by rw [← List.drop_one, List.take_append_drop]⟩
    · exact ⟨[], rfl⟩

section
variable {s t : State} (h : PollsOnly s t)
include h

theorem PollsOnly.regs : t.regs = s.regs := by have := congrArg State.regs h.frame; exact this
theorem PollsOnly.pc : t.pc = s.pc := by have := congrArg State.pc h.frame; exact this
theorem PollsOnly.cond : t.cond = s.cond := by have := congrArg State.cond h.frame; exact this
theorem PollsOnly.run : t.run = s.run := by have := congrArg State.run h.frame; exact this
theorem PollsOnly.fault : t.fault = s.fault := by have := congrArg State.fault h.frame; exact this
theorem PollsOnly.out : t.out = s.out := by have := congrArg State.out h.frame; exact this
theorem PollsOnly.held : t.held = s.held := by have := congrArg State.held h.frame; exact this
theorem PollsOnly.arrivals : t.arrivals = s.arrivals := by have := congrArg State.arrivals h.frame; exact this
theorem PollsOnly.reg (x : Reg) : t.reg x = s.reg x := congrArg (RegFile.get · x) h.regs

end

/-! ## The effects by kind -/

/-- What an instruction can do. The spec's tables of the instruction (`definedReg` and the others) stand at the effects
they name. -/
inductive Effect (i : Instr) (s : State) : State → Prop where
  | defines {s' : State} {dr : Reg} {v : Word} (hdef : definedReg i = some dr)
      (hpoll : PollsOnly s s') (hs' : mayPoll i = true ∨ s' = s) : Effect i s (s'.define dr v)
  | stores {s' : State} {a v : Word} (hdef : definedReg i = none) (hstore : storeAddress i s = some a)
      (hpoll : PollsOnly s s') (hs' : mayPoll i = true ∨ s' = s) : Effect i s (s'.memWrite a v)
  | jumps {v : Word} (hdef : definedReg i = none) (hctl : transfersControl i = true) : Effect i s (s.setPc v)
  | calls {v : Word} (hdef : definedReg i = none) (hctl : transfersControl i = true) (hlink : Reg.r7 ∈ regsWritten i) :
      Effect i s (s.link.setPc v)
  | raisesDecodeFault {op : BitVec 4} (hi : i = .rti ∧ op = 8#4 ∨ i = .res ∧ op = 13#4) :
      Effect i s (s.raise (.decodeFault op))
  | raisesTrapFault {vec : BitVec 8} (hi : i = .trap vec) : Effect i s (s.link.raise (.trapFault vec))
  | writes {b : Byte} (hi : i = .trapOut) : Effect i s (s.link.writeChar b)
  | halts (hi : i = .trapHalt) : Effect i s ((s.link.writeChars Config.haltNotice).setRun .halted)
  | routine {h : Held} {t : State} (hi : i = h.instr) (ht : RoutineEffect h (s.link.writeChars h.prompt) t) :
      Effect i s t

theorem instr_effect (h : Held) (s : State) : ∃ t, exec h.instr s = .next t ∧ Effect h.instr s t := by
  obtain ⟨t, ht, heff⟩ := resume_effect h (s.link.writeChars h.prompt)
  exact ⟨t, (exec_instr s h).trans ht, .routine rfl heff⟩

/-- Every instruction answers a next state, and has one of the effects. -/
theorem exec_effect (i : Instr) (s : State) : ∃ t, exec i s = .next t ∧ Effect i s t := by
  have hpoll := s.pollsOnly_memRead
  cases i with
  | br cond off =>
    refine ⟨_, exec_br s cond off, ?_⟩
    split
    · exact .jumps rfl rfl
    · exact .jumps (v := s.pc) rfl rfl
  | addReg dr sr1 sr2 => exact ⟨_, exec_addReg s dr sr1 sr2, .defines rfl (.refl s) (.inr rfl)⟩
  | addImm dr sr1 imm5 => exact ⟨_, exec_addImm dr sr1 imm5 s, .defines rfl (.refl s) (.inr rfl)⟩
  | ld dr off => exact ⟨_, exec_ld s dr off, .defines rfl (hpoll _) (.inl rfl)⟩
  | st sr off => exact ⟨_, exec_st s sr off, .stores rfl rfl (.refl s) (.inr rfl)⟩
  | jsr off => exact ⟨_, exec_jsr s off, .calls rfl rfl (.head _)⟩
  | jsrr baseR => exact ⟨_, exec_jsrr s baseR, .calls rfl rfl (.head _)⟩
  | andReg dr sr1 sr2 => exact ⟨_, exec_andReg s dr sr1 sr2, .defines rfl (.refl s) (.inr rfl)⟩
  | andImm dr sr1 imm5 => exact ⟨_, exec_andImm dr sr1 imm5 s, .defines rfl (.refl s) (.inr rfl)⟩
  | ldr dr baseR off => exact ⟨_, exec_ldr s dr baseR off, .defines rfl (hpoll _) (.inl rfl)⟩
  | str sr baseR off => exact ⟨_, exec_str s sr baseR off, .stores rfl rfl (.refl s) (.inr rfl)⟩
  | rti => exact ⟨_, exec_rti s, .raisesDecodeFault (.inl ⟨rfl, rfl⟩)⟩
  | notReg dr sr => exact ⟨_, exec_notReg s dr sr, .defines rfl (.refl s) (.inr rfl)⟩
  | ldi dr off => exact ⟨_, exec_ldi s dr off, .defines rfl ((hpoll _).trans (State.pollsOnly_memRead _ _)) (.inl rfl)⟩
  | sti sr off => exact ⟨_, exec_sti s sr off, .stores rfl rfl (hpoll _) (.inl rfl)⟩
  | jmp baseR => exact ⟨_, exec_jmp s baseR, .jumps rfl rfl⟩
  | res => exact ⟨_, exec_res s, .raisesDecodeFault (.inr ⟨rfl, rfl⟩)⟩
  | lea dr off => exact ⟨_, exec_lea s dr off, .defines rfl (.refl s) (.inr rfl)⟩
  | trapGetc => exact instr_effect .getc s
  | trapOut => exact ⟨_, exec_trapOut s, .writes rfl⟩
  | trapPuts => exact instr_effect .puts s
  | trapIn => exact instr_effect .inChar s
  | trapPutsp => exact instr_effect .putsp s
  | trapHalt => exact ⟨_, exec_trapHalt s, .halts rfl⟩
  | trap vec => exact ⟨_, exec_trap s vec, .raisesTrapFault rfl⟩

theorem effect_of_exec {i : Instr} {s t : State} (h : exec i s = .next t) : Effect i s t := by
  obtain ⟨u, hu, heff⟩ := exec_effect i s
  cases hu.symm.trans h
  exact heff

theorem routineEffect_of_resume {h : Held} {s t : State} (ht : resume h s = .next t) : RoutineEffect h s t := by
  obtain ⟨u, hu, heff⟩ := resume_effect h s
  cases hu.symm.trans ht
  exact heff

/-! ## The statement that follows at once -/

/-- Settles O14: an instruction and a held one always have an effect, and a step is one of the two or changes nothing. -/
theorem everyInstructionAndEveryStepAnswersANextState : Obligations.EveryInstructionAndEveryStepAnswersANextState := by
  refine ⟨fun i s => ?exec, fun s => ?step⟩
  case exec =>
    obtain ⟨t, ht, -⟩ := exec_effect i s
    exact ⟨t, ht⟩
  case step =>
    by_cases hr : s.run = .running
    · cases hh : s.held with
      | none =>
        obtain ⟨t, ht, -⟩ := exec_effect (decode s.arrive.fetch.1) s.arrive.fetch.2
        exact ⟨t, (step_fetch hr hh).trans ht⟩
      | some h =>
        obtain ⟨t, ht, -⟩ := resume_effect h s.arrive
        exact ⟨t, (step_held hr hh).trans ht⟩
    · exact ⟨s, step_stopped hr⟩

end Sys2Proof.Machine

/-! What an instruction leaves alone (10_state.md sections 2 to 4, 20_memory.md section 4, 60_exceptions.md section 5): from
its effects, the statements about `PC`, `COND`, the registers, memory and the output. -/

namespace Sys2Proof.Machine

/-! ## A routine from its read or walk on -/

section
variable {h : Held} {s t : State} (ht : RoutineEffect h s t)
include ht

theorem RoutineEffect.pc : t.pc = s.pc := by cases ht <;> rfl
theorem RoutineEffect.mem : t.mem = s.mem := by cases ht <;> rfl
theorem RoutineEffect.run : t.run = s.run := by cases ht <;> rfl
theorem RoutineEffect.fault : t.fault = s.fault := by cases ht <;> rfl
theorem RoutineEffect.arrivals : t.arrivals = s.arrivals := by cases ht <;> rfl

/-- Only a routine that reads the keyboard writes a register, `R0`. -/
theorem RoutineEffect.reg {x : Reg} (hx : h.readsKey = true → x ≠ .r0) : t.reg x = s.reg x := by
  cases ht with
  | waits => rfl
  | takesKey hh => exact State.reg_define_of_ne _ _ (hx hh)
  | walks => rfl

theorem RoutineEffect.out : ∃ w, t.out = s.out ++ w ∧ (h = .getc → w = []) := by
  cases ht with
  | waits => exact ⟨[], (List.append_nil _).symm, fun _ => rfl⟩
  | @takesKey _ b _ => exact ⟨h.echo b, rfl, fun hh => by rw [hh]; rfl⟩
  | walks hh bs => exact ⟨bs, rfl, fun hg => by rw [hg] at hh; cases hh⟩

theorem RoutineEffect.kbd : ∃ used, s.kbd = used ++ t.kbd := by
  cases ht with
  | waits => exact ⟨[], rfl⟩
  | @takesKey _ b _ hk => exact ⟨[b], hk⟩
  | walks => exact ⟨[], rfl⟩

end

theorem definedReg_instr {h : Held} (hh : h.readsKey = true) : definedReg h.instr = some .r0 := by
  cases h with
  | getc => rfl
  | inChar => rfl
  | _ => cases hh

theorem definedReg_instr_of_walk {h : Held} (hh : h.readsKey = false) : definedReg h.instr = none := by
  cases h with
  | puts => rfl
  | putsp => rfl
  | _ => cases hh

theorem instr_of_readsKey {h : Held} (hh : h.readsKey = true) : h.instr = .trapGetc ∨ h.instr = .trapIn := by
  cases h with
  | getc => exact .inl rfl
  | inChar => exact .inr rfl
  | _ => cases hh

/-! ## The effects -/

theorem mem_regsWritten_of_definedReg {i : Instr} {d : Reg} (hd : definedReg i = some d) : d ∈ regsWritten i := by
  cases i <;> simp_all [definedReg, regsWritten]

section
variable {i : Instr} {s t : State} (heff : Effect i s t)
include heff

theorem Effect.pc (hctl : transfersControl i = false) : t.pc = s.pc := by
  cases heff with
  | defines _ hpoll => exact hpoll.pc
  | stores _ _ hpoll => exact hpoll.pc
  | jumps _ hctl' => simp [hctl] at hctl'
  | calls _ hctl' => simp [hctl] at hctl'
  | routine _ ht => exact ht.pc
  | _ => rfl

theorem Effect.cond_of_definedReg_none (hnone : definedReg i = none) : t.cond = s.cond := by
  cases heff with
  | defines hdef => simp [hnone] at hdef
  | stores _ _ hpoll => exact hpoll.cond
  | routine hi ht =>
    cases ht with
    | waits => rfl
    | takesKey hh => simp [hi, definedReg_instr hh] at hnone
    | walks => rfl
  | _ => rfl

theorem Effect.flagsShow_of_definedReg {d : Reg} (hd : definedReg i = some d) :
    FlagsShow (t.reg d) t ∨
      ((i = .trapGetc ∨ i = .trapIn) ∧ s.kbd = [] ∧ t.cond = s.cond ∧ (d ≠ .r7 → t.reg d = s.reg d)) := by
  have hdefine (u : State) (v : Word) : FlagsShow ((u.define d v).reg d) (u.define d v) :=
    flagsShow_of_cond (by rw [State.define_cond, State.reg_define_self])
  cases heff with
  | defines hdef =>
    cases hdef.symm.trans hd
    exact .inl (hdefine _ _)
  | stores hdef => cases hdef.symm.trans hd
  | jumps hdef => cases hdef.symm.trans hd
  | calls hdef => cases hdef.symm.trans hd
  | raisesDecodeFault hi => rcases hi with ⟨rfl, -⟩ | ⟨rfl, -⟩ <;> cases hd
  | raisesTrapFault hi => subst hi; cases hd
  | writes hi => subst hi; cases hd
  | halts hi => subst hi; cases hd
  | routine hi ht =>
    subst hi
    cases ht with
    | waits hh hk => exact .inr ⟨instr_of_readsKey hh, hk, rfl, State.reg_link_of_ne s⟩
    | takesKey hh =>
      cases (definedReg_instr hh).symm.trans hd
      exact .inl (hdefine _ _)
    | walks hh => cases (definedReg_instr_of_walk hh).symm.trans hd

theorem Effect.reg {r : Reg} (hr : r ∉ regsWritten i) : t.reg r = s.reg r := by
  have hlink (h7 : Reg.r7 ∈ regsWritten i) : s.link.reg r = s.reg r :=
    State.reg_link_of_ne s fun h => hr (h ▸ h7)
  cases heff with
  | @defines s' dr v hdef hpoll =>
    have hne : r ≠ dr := fun h => hr (h ▸ mem_regsWritten_of_definedReg hdef)
    exact (State.reg_define_of_ne s' v hne).trans (hpoll.reg r)
  | stores _ _ hpoll => exact hpoll.reg r
  | jumps => rfl
  | calls _ _ h7 => exact hlink h7
  | raisesDecodeFault => rfl
  | raisesTrapFault hi => exact hlink (hi ▸ .head _)
  | writes hi => exact hlink (hi ▸ .head _)
  | halts hi => exact hlink (hi ▸ .head _)
  | @routine h _ hi ht =>
    have h7 : Reg.r7 ∈ regsWritten i := by rw [hi]; cases h <;> exact .head _
    refine (ht.reg fun hh h0 => hr ?_).trans (hlink h7)
    rw [h0, hi]
    exact mem_regsWritten_of_definedReg (definedReg_instr hh)

theorem Effect.read (a : Word) :
    t.mem.read a = s.mem.read a ∨ storeAddress i s = some a ∨
      (mayPoll i = true ∧ (a = 0xFE00#16 ∨ a = 0xFE02#16)) := by
  have hpolls {s' : State} (hpoll : PollsOnly s s') (hs' : mayPoll i = true ∨ s' = s) :
      s'.mem.read a = s.mem.read a ∨ (mayPoll i = true ∧ (a = 0xFE00#16 ∨ a = 0xFE02#16)) := by
    by_cases hdev : a = 0xFE00#16 ∨ a = 0xFE02#16
    · exact hs'.symm.imp (congrArg (State.mem · |>.read a)) fun hmay => ⟨hmay, hdev⟩
    · exact .inl (hpoll.read a (fun h => hdev (.inl h)) (fun h => hdev (.inr h)))
  cases heff with
  | defines _ hpoll hs' => exact (hpolls hpoll hs').imp_right .inr
  | @stores s' ea v _ hstore hpoll hs' =>
    by_cases ha : a = ea
    · exact .inr (.inl (ha ▸ hstore))
    · rw [State.memWrite_mem, Memory.read_write_of_ne _ v ha]
      exact (hpolls hpoll hs').imp_right .inr
  | routine _ ht => exact .inl (congrArg (Memory.read · a) ht.mem)
  | _ => exact .inl rfl

theorem Effect.out : ∃ w, t.out = s.out ++ w ∧ (writesTerminal i = false → w = []) := by
  have hsame {o : List Byte} (ho : o = s.out) : ∃ w, o = s.out ++ w ∧ (writesTerminal i = false → w = []) :=
    ⟨[], by rw [ho, List.append_nil], fun _ => rfl⟩
  cases heff with
  | defines _ hpoll => exact hsame hpoll.out
  | stores _ _ hpoll => exact hsame hpoll.out
  | @writes b hi => exact ⟨[b], rfl, fun hw => by rw [hi] at hw; cases hw⟩
  | halts hi => exact ⟨_, rfl, fun hw => by rw [hi] at hw; cases hw⟩
  | @routine h _ hi ht =>
    obtain ⟨w, hw, hgetc⟩ := ht.out
    refine ⟨h.prompt ++ w, by rw [hw, State.writeChars_out, State.link_out, List.append_assoc], fun hquiet => ?_⟩
    rw [hi] at hquiet
    cases h with
    | getc => exact hgetc rfl
    | _ => cases hquiet
  | _ => exact hsame rfl

theorem Effect.kbd : ∃ used, s.kbd = used ++ t.kbd := by
  cases heff with
  | defines _ hpoll => exact hpoll.kbd
  | stores _ _ hpoll => exact hpoll.kbd
  | routine _ ht => exact ht.kbd
  | _ => exact ⟨[], rfl⟩

theorem Effect.arrivals : t.arrivals = s.arrivals := by
  cases heff with
  | defines _ hpoll => exact hpoll.arrivals
  | stores _ _ hpoll => exact hpoll.arrivals
  | routine _ ht => exact ht.arrivals
  | _ => rfl

end

/-! ## The fetch -/

theorem State.read_fetch (s : State) (a : Word) :
    s.fetch.2.mem.read a = s.mem.read a ∨ (s.pc = 0xFE00#16 ∧ (a = 0xFE00#16 ∨ a = 0xFE02#16)) := by
  by_cases hpc : s.pc = kbsr
  · by_cases hdev : a = 0xFE00#16 ∨ a = 0xFE02#16
    · exact .inr ⟨hpc, hdev⟩
    · exact .inl ((s.pollsOnly_memRead s.pc).read a (fun h => hdev (.inl h)) (fun h => hdev (.inr h)))
  · exact .inl (by rw [State.fetch_mem, State.memRead_of_ne s hpc])

/-! ## The statements -/

/-- Settles O44: of the effects only jumps and calls write `PC`. -/
theorem onlyControlTransfersWritePc : Obligations.OnlyControlTransfersWritePc :=
  fun _ _ _ h hctl => (effect_of_exec h).pc hctl

/-- Settles O45: only the definition of a register writes `COND`, with the class of the value it writes. -/
theorem condIsWrittenOnlyWithADefinedRegister : Obligations.CondIsWrittenOnlyWithADefinedRegister :=
  fun _ _ _ h => ⟨(effect_of_exec h).cond_of_definedReg_none, fun _ hd => (effect_of_exec h).flagsShow_of_definedReg hd⟩

/-- Settles O46: the effects write the defined register and, with the link, `R7`. -/
theorem noOtherRegisterIsWritten : Obligations.NoOtherRegisterIsWritten :=
  fun _ _ _ _ h hr => (effect_of_exec h).reg hr

/-- Settles O48: the effects write memory by the poll of an access or by the store. -/
theorem memoryChangesOnlyByStoresAndKeyboardPolls : Obligations.MemoryChangesOnlyByStoresAndKeyboardPolls :=
  ⟨State.read_fetch, fun _ _ _ a h => (effect_of_exec h).read a⟩

/-- Settles O49: the effects that append to the output are those of the five routines. -/
theorem outputIsWrittenOnlyByTheTrapRoutines : Obligations.OutputIsWrittenOnlyByTheTrapRoutines :=
  fun _ _ _ h => (effect_of_exec h).out

end Sys2Proof.Machine

/-! The invariant (10_state.md sections 4 and 6, 60_exceptions.md section 1, 70_reset_and_hazards.md section 2): the states
that meet it, by run state, and that reset and every effect lead to one of them. -/

namespace Sys2Proof.Machine

/-! ## States that meet the invariant -/

/-- RUNNING, with the parts of the invariant that do not name `held`. -/
structure State.Running (s : State) : Prop where
  run : s.run = .running
  fault : s.fault = none
  cond : CondLegal s.cond
  mem : s.mem.wf = true

theorem State.Inv.running {s : State} (h : s.Inv) (hrun : s.run = .running) : s.Running :=
  ⟨hrun, by simpa [State.faultConsistent, hrun] using h.fault, h.cond, h.mem⟩

theorem State.Inv.reg_r7_of_held {s : State} {h : Held} (hinv : s.Inv) (hrun : s.run = .running) (hh : s.held = some h) :
    s.reg .r7 = s.pc := by
  simpa [State.linkConsistent, hrun, hh] using hinv.link

section
variable {s : State}

theorem State.Running.inv_of_not_held (h : s.Running) (hh : s.held = none) : s.Inv where
  cond := h.cond
  mem := h.mem
  fault := by simp [State.faultConsistent, h.run, h.fault]
  link := by simp [State.linkConsistent, h.run, hh]
  held := by simp [State.heldConsistent, hh]

theorem State.Running.inv_of_held {x : Held} (h : s.Running) (hh : s.held = some x) (hlink : s.reg .r7 = s.pc)
    (hkbd : x.readsKey = true → s.kbd = []) : s.Inv where
  cond := h.cond
  mem := h.mem
  fault := by simp [State.faultConsistent, h.run, h.fault]
  link := by simp [State.linkConsistent, h.run, hh, hlink]
  held := by
    cases x with
    | getc => simp [State.heldConsistent, hh, h.run, hkbd rfl]
    | inChar => simp [State.heldConsistent, hh, h.run, hkbd rfl]
    | puts => simp [State.heldConsistent, hh, h.run]
    | putsp => simp [State.heldConsistent, hh, h.run]

theorem State.Running.inv_halted (h : s.Running) (hh : s.held = none) (hlink : s.reg .r7 = s.pc) :
    (s.setRun .halted).Inv where
  cond := h.cond
  mem := h.mem
  fault := by simp [State.faultConsistent, h.fault]
  link := by simp [State.linkConsistent, hlink]
  held := by simp [State.heldConsistent, hh]

theorem State.Running.inv_raise {k : FaultKind} (h : s.Running) (hh : s.held = none) (hk : k.legal = true)
    (hlink : ∀ vec, k = .trapFault vec → s.reg .r7 = s.pc) : (s.raise k).Inv where
  cond := h.cond
  mem := h.mem
  fault := by simp [State.faultConsistent, hk]
  link := by
    cases k with
    | decodeFault => simp [State.linkConsistent]
    | trapFault vec => simp [State.linkConsistent, hlink vec rfl]
  held := by simp [State.heldConsistent, hh]

/-! ## What keeps RUNNING -/

theorem State.Running.arrive (h : s.Running) : s.arrive.Running := ⟨h.run, h.fault, h.cond, h.mem⟩

theorem State.Running.link (h : s.Running) : s.link.Running := ⟨h.run, h.fault, h.cond, h.mem⟩

theorem State.Running.setPc (h : s.Running) (v : Word) : (s.setPc v).Running := ⟨h.run, h.fault, h.cond, h.mem⟩

theorem State.Running.setKbd (h : s.Running) (k : List Byte) : (s.setKbd k).Running := ⟨h.run, h.fault, h.cond, h.mem⟩

theorem State.Running.setHeld (h : s.Running) (x : Option Held) : (s.setHeld x).Running :=
  ⟨h.run, h.fault, h.cond, h.mem⟩

theorem State.Running.writeChars (h : s.Running) (bs : List Byte) : (s.writeChars bs).Running :=
  ⟨h.run, h.fault, h.cond, h.mem⟩

theorem State.Running.define (h : s.Running) (dr : Reg) (v : Word) : (s.define dr v).Running :=
  ⟨h.run, h.fault, State.define_cond s dr v ▸ condOf_legal v, h.mem⟩

theorem State.Running.memWrite (h : s.Running) (a v : Word) : (s.memWrite a v).Running :=
  ⟨h.run, h.fault, h.cond, Memory.wf_write a v h.mem⟩

theorem PollsOnly.running {t : State} (hpoll : PollsOnly s t) (h : s.Running) : t.Running :=
  ⟨hpoll.run.trans h.run, hpoll.fault.trans h.fault, hpoll.cond.symm ▸ h.cond, hpoll.wf h.mem⟩

theorem State.Running.fetch (h : s.Running) : s.fetch.2.Running :=
  ((s.pollsOnly_memRead s.pc).running h).setPc _

end

/-! ## The effects -/

/-- A routine keeps the return address in `R7` while it is held. -/
theorem RoutineEffect.inv {h : Held} {s t : State} (ht : RoutineEffect h s t) (hs : s.Running)
    (hlink : s.reg .r7 = s.pc) : t.Inv := by
  cases ht with
  | waits _ hk => exact (hs.setHeld _).inv_of_held rfl hlink fun _ => hk
  | takesKey => exact ((((hs.setKbd _).writeChars _).define _ _).setHeld _).inv_of_not_held rfl
  | walks hh bs hheld =>
    rcases hheld with rfl | rfl
    · exact ((hs.writeChars bs).setHeld _).inv_of_not_held rfl
    · exact ((hs.writeChars bs).setHeld _).inv_of_held rfl hlink fun hkey => by simp [hh] at hkey

theorem Effect.inv {i : Instr} {s t : State} (heff : Effect i s t) (hi : wellFormed i = true) (hs : s.Running)
    (hheld : s.held = none) : t.Inv := by
  cases heff with
  | defines _ hpoll => exact ((hpoll.running hs).define _ _).inv_of_not_held (hpoll.held.trans hheld)
  | stores _ _ hpoll => exact ((hpoll.running hs).memWrite _ _).inv_of_not_held (hpoll.held.trans hheld)
  | jumps => exact (hs.setPc _).inv_of_not_held hheld
  | calls => exact (hs.link.setPc _).inv_of_not_held hheld
  | raisesDecodeFault hop =>
    refine hs.inv_raise hheld ?_ (fun _ hk => by cases hk)
    rcases hop with ⟨-, rfl⟩ | ⟨-, rfl⟩ <;> rfl
  | raisesTrapFault htrap =>
    subst htrap
    exact hs.link.inv_raise hheld hi fun _ _ => State.reg_link_r7 s
  | writes => exact (hs.link.writeChars _).inv_of_not_held hheld
  | halts => exact (hs.link.writeChars _).inv_halted hheld (State.reg_link_r7 s)
  | routine _ ht => exact ht.inv (hs.link.writeChars _) (State.reg_link_r7 s)

/-! ## The statements -/

theorem State.inv_resetWith {image : Memory} (entry : Word) (kbd : List Byte) (arrivals : Arrivals)
    (himage : image.wf = true) : (State.resetWith image entry kbd arrivals).Inv :=
  State.Running.inv_of_not_held ⟨rfl, rfl, .inr (.inl rfl), himage⟩ rfl

/-- Settles O42: reset is RUNNING with the zero flag and nothing held, and its memory is the image. -/
theorem resetMeetsTheInvariant : Obligations.ResetMeetsTheInvariant :=
  ⟨fun _ entry kbd arrivals himage => State.inv_resetWith entry kbd arrivals himage, State.inv_resetWith _ _ _ rfl⟩

/-- Settles O43: a step in RUNNING is an effect of a decoded and so well-formed instruction, or of a held routine, whose
return address is in `R7`. -/
theorem everyStepKeepsTheInvariant : Obligations.EveryStepKeepsTheInvariant := by
  intro s t hinv hstep
  rcases step_cases hstep with ⟨-, rfl⟩ | ⟨hrun, hheld, hexec⟩ | ⟨hrun, h, hheld, hresume⟩
  · exact hinv
  · exact (effect_of_exec hexec).inv (wellFormed_decode _) (hinv.running hrun).arrive.fetch
      ((State.fetch_held _).trans hheld)
  · exact (routineEffect_of_resume hresume).inv (hinv.running hrun).arrive (hinv.reg_r7_of_held hrun hheld)

end Sys2Proof.Machine

/-! Runs (10_state.md section 6, 60_exceptions.md sections 1 and 5): which words end a run and what the end leaves, and along
a run of any length the output and the keyboard queue. -/

namespace Sys2Proof

/-! ## The words that end a run -/

theorem servedVector_eq_false_iff {v : BitVec 8} : servedVector v = false ↔ v.toNat < 0x20 ∨ 0x25 < v.toNat := by
  simp [servedVector, BitVec.le_def]
  omega

theorem servedVector_of_wellFormed_trap {v : BitVec 8} (h : wellFormed (.trap v) = true) : servedVector v = false := by
  simpa [wellFormed] using h

theorem decode_eq_rti_iff {w : Word} : decode w = .rti ↔ w &&& 0xF000#16 = 0x8000#16 :=
  ⟨and_mask_of_decode, fun h => decode_rti (opcode_of_and_F000 h)⟩

theorem decode_eq_res_iff {w : Word} : decode w = .res ↔ w &&& 0xF000#16 = 0xD000#16 :=
  ⟨and_mask_of_decode, fun h => decode_res (opcode_of_and_F000 h)⟩

theorem decode_eq_trapHalt_iff {w : Word} : decode w = .trapHalt ↔ w &&& 0xF0FF#16 = 0xF025#16 := by
  refine ⟨and_mask_of_decode, fun h => ?_⟩
  obtain ⟨hop, hvec⟩ := fields_of_and_F0FF h
  rw [decode_trap hop, hvec]
  rfl

theorem toNat_and_00FF (w : Word) : (w &&& 0x00FF#16).toNat = (w.extractLsb' 0 8).toNat := by
  rw [BitVec.toNat_and, BitVec.extractLsb'_toNat, Nat.shiftRight_zero]
  exact Nat.and_two_pow_sub_one_eq_mod _ 8

/-- Opcode 15 falls through to its fallback exactly for an unserved vector. -/
theorem decodeTrap_eq_trap_iff {vec : BitVec 8} : (∃ v, decodeTrap vec = .trap v) ↔ servedVector vec = false := by
  refine ⟨fun ⟨v, hv⟩ => ?_, fun h => ⟨vec, decodeTrap_unserved vec h⟩⟩
  have hwf := servedVector_of_wellFormed_trap (hv ▸ wellFormed_decodeTrap vec)
  unfold decodeTrap at hv
  split_ifs at hv
  cases hv
  exact hwf

theorem decode_eq_trap_iff {w : Word} : (∃ v, decode w = .trap v) ↔
    w &&& 0xF000#16 = 0xF000#16 ∧ ((w &&& 0x00FF#16).toNat < 0x20 ∨ 0x25 < (w &&& 0x00FF#16).toNat) := by
  rw [toNat_and_00FF, ← servedVector_eq_false_iff, ← decodeTrap_eq_trap_iff]
  constructor
  · rintro ⟨v, hv⟩
    have hop := and_mask_of_decode hv
    exact ⟨hop, v, decode_trap_of_and_F000 hop ▸ hv⟩
  · rintro ⟨hop, hv⟩
    rwa [decode_trap_of_and_F000 hop]

end Sys2Proof

namespace Sys2Proof.Machine

/-! ## The run state an instruction leaves -/

section
variable {i : Instr} {s t : State}

theorem Effect.run (heff : Effect i s t) :
    t.run = s.run ∨ (t.run = .halted ∧ i = .trapHalt) ∨
      (t.run = .faulted ∧ (i = .rti ∨ i = .res ∨ ∃ vec, i = .trap vec)) := by
  cases heff with
  | defines _ hpoll => exact .inl hpoll.run
  | stores _ _ hpoll => exact .inl hpoll.run
  | raisesDecodeFault hi => exact .inr (.inr ⟨rfl, hi.imp And.left fun h => .inl h.1⟩)
  | raisesTrapFault hi => exact .inr (.inr ⟨rfl, .inr (.inr ⟨_, hi⟩)⟩)
  | halts hi => exact .inr (.inl ⟨rfl, hi⟩)
  | routine _ ht => exact .inl ht.run
  | _ => exact .inl rfl

variable (hexec : exec i s = .next t) (hrun : s.run = .running)
include hexec hrun

theorem run_eq_halted_iff_of_exec : t.run = .halted ↔ i = .trapHalt := by
  constructor
  · intro ht
    rcases (effect_of_exec hexec).run with h | ⟨-, hi⟩ | ⟨h, -⟩
    · simp [h, hrun] at ht
    · exact hi
    · simp [h] at ht
  · rintro rfl
    cases hexec
    rfl

theorem run_eq_faulted_iff_of_exec : t.run = .faulted ↔ i = .rti ∨ i = .res ∨ ∃ vec, i = .trap vec := by
  constructor
  · intro ht
    rcases (effect_of_exec hexec).run with h | ⟨h, -⟩ | ⟨-, hi⟩
    · simp [h, hrun] at ht
    · simp [h] at ht
    · exact hi
  · rintro (rfl | rfl | ⟨vec, rfl⟩) <;> cases hexec <;> rfl

/-- An instruction that faults is one of the two raises and nothing else. -/
theorem raise_of_run_eq_faulted (ht : t.run = .faulted) :
    (∃ op, t = s.raise (.decodeFault op) ∧ (op = 8#4 ∨ op = 13#4)) ∨
      ∃ vec, t = s.link.raise (.trapFault vec) ∧ i = .trap vec := by
  rcases (run_eq_faulted_iff_of_exec hexec hrun).mp ht with rfl | rfl | ⟨vec, rfl⟩ <;> cases hexec
  · exact .inl ⟨8#4, rfl, .inl rfl⟩
  · exact .inl ⟨13#4, rfl, .inr rfl⟩
  · exact .inr ⟨vec, rfl, rfl⟩

end

/-! ## Runs of any length -/

theorem coreRun_succ_of_step (M : Host.Core) {n : Nat} {s u : M.State} (hstep : M.step s = .next u) :
    M.run (n + 1) s = M.run n u := by
  rw [Host.Core.run, hstep]

theorem run_core_succ_of_step {n : Nat} {s u : State} (hstep : step s = .next u) :
    Host.Core.run Sys2Proof.core (n + 1) s = Host.Core.run Sys2Proof.core n u :=
  coreRun_succ_of_step Sys2Proof.core hstep

theorem run_core_stopped {s : State} (hs : s.run ≠ .running) (n : Nat) :
    Host.Core.run Sys2Proof.core n s = .next s := by
  induction n with
  | zero => rfl
  | succ n ih => rw [run_core_succ_of_step (step_stopped hs), ih]

/-- One step in RUNNING: the arrivals join the queue, and what is consumed is a front part of it. -/
theorem terminal_of_step {s t : State} (hrun : s.run = .running) (hstep : step s = .next t) :
    (∃ w, t.out = s.out ++ w) ∧ t.arrivals = s.arrivals.later ∧ ∃ used, s.kbd ++ s.arrivals.next = used ++ t.kbd := by
  rcases step_cases hstep with ⟨hne, -⟩ | ⟨-, -, hexec⟩ | ⟨-, h, -, hresume⟩
  · exact absurd hrun hne
  · have heff := effect_of_exec hexec
    obtain ⟨w, hw, -⟩ := heff.out
    obtain ⟨used, hused⟩ := (State.pollsOnly_memRead s.arrive s.pc).kbd
    obtain ⟨used', hused'⟩ := heff.kbd
    refine ⟨⟨w, by simpa using hw⟩, by simpa using heff.arrivals, used ++ used', ?_⟩
    rw [List.append_assoc, ← hused']
    exact hused
  · have ht := routineEffect_of_resume hresume
    obtain ⟨w, hw, -⟩ := ht.out
    exact ⟨⟨w, hw⟩, ht.arrivals, ht.kbd⟩

/-! ## The statements -/

/-- Settles O50: by induction on the number of steps; a step in RUNNING takes a front part of the queue with the arrivals,
and once the run is over nothing arrives. -/
theorem alongEveryRunOutputGrowsAndKeysAreTakenInOrder : Obligations.AlongEveryRunOutputGrowsAndKeysAreTakenInOrder := by
  intro n
  induction n with
  | zero =>
    intro s t h
    cases h
    exact ⟨⟨[], (List.append_nil _).symm⟩, 0, Nat.le_refl 0, fun k hk => absurd hk k.not_lt_zero,
      fun h => absurd h (Nat.lt_irrefl 0), rfl, [], List.append_nil _⟩
  | succ n ih =>
    intro s t h
    by_cases hrun : s.run = .running
    · obtain ⟨u, hstep⟩ := everyInstructionAndEveryStepAnswersANextState.2 s
      rw [run_core_succ_of_step hstep] at h
      obtain ⟨⟨w, hw⟩, harr, used, hused⟩ := terminal_of_step hrun hstep
      obtain ⟨⟨w', hw'⟩, m, hm, hbefore, hend, harr', used', hused'⟩ := ih u t h
      refine ⟨⟨w ++ w', by rw [hw', hw, List.append_assoc]⟩, m + 1, Nat.succ_le_succ hm, fun k hk => ?_, fun hlt => ?_,
        by rw [harr', harr]; rfl, used ++ used', ?_⟩
      · cases k with
        | zero => exact ⟨s, rfl, hrun⟩
        | succ k =>
          rw [run_core_succ_of_step hstep]
          exact hbefore k (Nat.lt_of_succ_lt_succ hk)
      · rw [run_core_succ_of_step hstep]
        exact hend (Nat.lt_of_succ_lt_succ hlt)
      · calc s.kbd ++ (s.arrivals.next ++ s.arrivals.later.bytes m)
            = used ++ (u.kbd ++ u.arrivals.bytes m) := by rw [← List.append_assoc, hused, harr, List.append_assoc]
          _ = used ++ used' ++ t.kbd := by rw [hused', List.append_assoc]
    · cases (run_core_stopped hrun (n + 1)).symm.trans h
      exact ⟨⟨[], (List.append_nil _).symm⟩, 0, Nat.zero_le _, fun k hk => absurd hk k.not_lt_zero,
        fun _ => ⟨hrun, rfl⟩, rfl, [], List.append_nil _⟩

/-- Settles O51: an instruction leaves RUNNING only as TRAP 0x25, RTI, RES or a TRAP with an unserved vector, each read off
the word by its opcode and vector; a held routine stays in RUNNING. -/
theorem runsEndOnlyByHaltAndByTheTwoFaults : Obligations.RunsEndOnlyByHaltAndByTheTwoFaults := by
  intro s t hrun hstep
  rcases step_cases hstep with ⟨hne, -⟩ | ⟨-, hheld, hexec⟩ | ⟨-, h, hheld, hresume⟩
  · exact absurd hrun hne
  · have hfetched : s.arrive.fetch.2.run = .running := (State.fetch_run _).trans hrun
    refine ⟨?halted, ?faulted⟩
    case halted =>
      rw [run_eq_halted_iff_of_exec hexec hfetched, decode_eq_trapHalt_iff]
      exact (and_iff_right hheld).symm
    case faulted =>
      rw [run_eq_faulted_iff_of_exec hexec hfetched, decode_eq_rti_iff, decode_eq_res_iff, decode_eq_trap_iff]
      exact (and_iff_right hheld).symm
  · have ht : t.run = .running := (routineEffect_of_resume hresume).run.trans hrun
    simp [ht, hheld]

/-- Settles O52: the effects that end in FAULTED are the two raises, made on the state the fetch leaves. -/
theorem faultsArePrecise : Obligations.FaultsArePrecise := by
  intro s t hrun hstep hfaulted
  rcases step_cases hstep with ⟨hne, -⟩ | ⟨-, -, hexec⟩ | ⟨-, h, -, hresume⟩
  · exact absurd hrun hne
  · have hpc : s.arrive.fetch.2.pc - 1 = s.pc := by simp
    rcases raise_of_run_eq_faulted hexec ((State.fetch_run _).trans hrun) hfaulted with ⟨op, rfl, hop⟩ | ⟨vec, rfl, hi⟩
    · exact ⟨State.fetch_pc _, State.fetch_cond _, State.fetch_out _, fun r _ => State.reg_fetch _ r, rfl, rfl,
        .inl ⟨op, by rw [State.raise_fault, hpc], hop, State.reg_fetch _ _⟩⟩
    · have hvec : servedVector vec = false := servedVector_of_wellFormed_trap (hi ▸ wellFormed_decode _)
      exact ⟨State.fetch_pc _, State.fetch_cond _, State.fetch_out _,
        fun r hr => (State.reg_link_of_ne _ hr).trans (State.reg_fetch _ r), rfl, rfl,
        .inr ⟨vec, by rw [State.raise_fault, State.link_pc, hpc], hvec,
          (State.reg_link_r7 _).trans (State.fetch_pc _)⟩⟩
  · exact absurd ((routineEffect_of_resume hresume).run.trans hrun) (by simp [hfaulted])

end Sys2Proof.Machine

/-! Which registers an instruction reads (10_state.md section 2): a value written beforehand into any other register commutes
with every operation the instruction is made of, and the statement settled from it. -/

namespace Sys2Proof.Machine

/-! ## Another value beforehand -/

theorem RegFile.set_set_self (f : RegFile) (r : Reg) (v w : Word) : (f.set r v).set r w = f.set r w := by
  cases r <;> rfl

theorem RegFile.set_comm (f : RegFile) {r x : Reg} (h : r ≠ x) (v w : Word) :
    (f.set r v).set x w = (f.set x w).set r v :=
  RegFile.ext_get fun y => by
    by_cases hr : y = r
    · subst hr
      simp [h]
    · by_cases hx : y = x
      · subst hx
        simp [hr]
      · simp [hr, hx]

section
variable (s : State) (r : Reg) (v : Word)

theorem State.setReg_setReg_self (w : Word) : (s.setReg r v).setReg r w = s.setReg r w :=
  congrArg (fun f => { s with regs := f }) (s.regs.set_set_self r v w)

theorem State.setReg_comm {x : Reg} (h : r ≠ x) (w : Word) :
    (s.setReg r v).setReg x w = (s.setReg x w).setReg r v :=
  congrArg (fun f => { s with regs := f }) (s.regs.set_comm h v w)

theorem State.define_eq (x : Reg) (w : Word) : s.define x w = (s.setReg x w).setCond (condOf w) :=
  congrArg (s.setReg x w).setCond (congrArg condOf (State.reg_setReg_self s x w))

theorem State.define_setReg_self (w : Word) : (s.setReg r v).define r w = s.define r w := by
  rw [State.define_eq, State.define_eq, State.setReg_setReg_self]

theorem State.define_setReg_of_ne {x : Reg} (h : r ≠ x) (w : Word) :
    (s.setReg r v).define x w = (s.define x w).setReg r v := by
  rw [State.define_eq, State.define_eq, State.setReg_comm s r v h]
  rfl

theorem State.poll_setReg : (s.setReg r v).poll = s.poll.setReg r v := by
  cases hk : s.kbd with
  | nil => rw [State.poll_nil hk, State.poll_nil (s := s.setReg r v) hk]; rfl
  | cons b rest => rw [State.poll_cons hk, State.poll_cons (s := s.setReg r v) hk]; rfl

theorem State.memRead_setReg (a : Word) :
    (s.setReg r v).memRead a = ((s.memRead a).1, (s.memRead a).2.setReg r v) := by
  by_cases ha : a = kbsr
  · rw [ha, State.memRead_kbsr, State.memRead_kbsr, State.poll_setReg]
    rfl
  · rw [State.memRead_of_ne _ ha, State.memRead_of_ne _ ha]
    rfl

end

/-! ## What becomes of it -/

/-- `u` is the state reached where `t` is, with `v` in `r` beforehand: the value comes through, or is lost if `r` is one of
the registers written. -/
def NotRead (r : Reg) (v : Word) (written : List Reg) (t u : State) : Prop :=
  (r ∉ written → u = t.setReg r v) ∧ (r ∈ written → u = t)

section
variable {r : Reg} {v : Word} {ws : List Reg} {t u : State}

theorem NotRead.start (r : Reg) (v : Word) (s : State) : NotRead r v [] s (s.setReg r v) :=
  ⟨fun _ => rfl, fun h => by cases h⟩

/-- An operation that leaves the register alone and does not read it. -/
theorem NotRead.map (h : NotRead r v ws t u) {g : State → State} (hg : g (t.setReg r v) = (g t).setReg r v) :
    NotRead r v ws (g t) (g u) :=
  ⟨fun hr => (congrArg g (h.1 hr)).trans hg, fun hr => congrArg g (h.2 hr)⟩

/-- The definition of a register, which adds it to those written. -/
theorem NotRead.define (h : NotRead r v ws t u) (d : Reg) (w : Word) :
    NotRead r v (ws ++ [d]) (t.define d w) (u.define d w) := by
  refine ⟨fun hr => ?_, fun hr => ?_⟩
  · obtain ⟨hws, hd⟩ : r ∉ ws ∧ r ≠ d := by simpa using hr
    rw [h.1 hws, State.define_setReg_of_ne t r v hd]
  · by_cases hws : r ∈ ws
    · rw [h.2 hws]
    · obtain rfl : r = d := by simpa [hws] using hr
      rw [h.1 hws, State.define_setReg_self]

theorem NotRead.link (r : Reg) (v : Word) (s : State) : NotRead r v [.r7] s.link (s.setReg r v).link := by
  refine ⟨fun hr => ?_, fun hr => ?_⟩
  · exact State.setReg_comm s r v (by simpa using hr) s.pc
  · obtain rfl : r = .r7 := by simpa using hr
    exact State.setReg_setReg_self s .r7 v s.pc

theorem NotRead.loadFrom (r : Reg) (v : Word) (s : State) (dr : Reg) (ea : Word) :
    NotRead r v [dr] (s.loadFrom dr ea) ((s.setReg r v).loadFrom dr ea) := by
  unfold State.loadFrom
  rw [State.memRead_setReg]
  exact (NotRead.start r v _).define dr _

end

/-! ## The instructions -/

section
variable (s : State) (r : Reg) (v : Word)

/-- A string routine reads `R0` and memory. -/
theorem notRead_of_walk {h : Held} (hh : h.readsKey = false) (hr : r ≠ .r0) :
    ∃ t u, exec h.instr s = .next t ∧ exec h.instr (s.setReg r v) = .next u ∧ NotRead r v [.r7] t u := by
  refine ⟨_, _, (exec_instr s h).trans (resume_walk _ hh), (exec_instr _ h).trans (resume_walk _ hh), ?_⟩
  have hentry := (NotRead.link r v s).map (g := fun t => t.writeChars h.prompt) rfl
  refine hentry.map
    (g := fun t => (t.writeChars (h.bytes (t.walk memoryWords (t.reg .r0)).1)).setHeld
      (if (t.walk memoryWords (t.reg .r0)).2 then none else some h)) ?_
  rw [State.reg_setReg_of_ne _ v hr.symm, State.walk_congr (State.setReg_mem _ r v)]
  rfl

/-- With a key GETC and IN overwrite `R0`; without one they have not yet. -/
theorem notRead_of_readsKey {h : Held} (hh : h.readsKey = true) :
    ∃ t u, exec h.instr s = .next t ∧ exec h.instr (s.setReg r v) = .next u ∧
      (NotRead r v [.r7, .r0] t u ∨ (s.kbd = [] ∧ NotRead r v [.r7] t u)) := by
  have hentry := (NotRead.link r v s).map (g := fun t => t.writeChars h.prompt) rfl
  cases hk : s.kbd with
  | nil =>
    refine ⟨_, _, (exec_instr s h).trans (resume_empty hh hk), (exec_instr _ h).trans (resume_empty hh hk), .inr ⟨rfl, ?_⟩⟩
    exact hentry.map (g := fun t => t.setHeld (some h)) rfl
  | cons b rest =>
    refine ⟨_, _, (exec_instr s h).trans (resume_key hh hk), (exec_instr _ h).trans (resume_key hh hk), .inl ?_⟩
    exact ((hentry.map (g := fun t => (t.setKbd rest).writeChars (h.echo b)) rfl).define .r0 (zext8 b)).map
      (g := fun t => t.setHeld none) rfl

end

/-- Every other instruction, from the operations it is made of; the registers it reads hold what they did. -/
theorem exec_notRead {i : Instr} {r : Reg} (hr : r ∉ regsRead i) (s : State) (v : Word)
    (hkey : ∀ h : Held, h.readsKey = true → i ≠ h.instr) :
    ∃ t u, exec i s = .next t ∧ exec i (s.setReg r v) = .next u ∧ NotRead r v (regsWritten i) t u := by
  have hreg (x : Reg) (hx : x ∈ regsRead i) : (s.setReg r v).reg x = s.reg x :=
    State.reg_setReg_of_ne s v fun h => hr (h ▸ hx)
  have hstart := NotRead.start r v s
  have hlink := NotRead.link r v s
  cases i with
  | br cond off =>
    refine ⟨_, _, exec_br s cond off, exec_br _ cond off, ?_⟩
    change NotRead r v [] _ (if s.condMet cond then (s.setPc (s.pc + sext off)).setReg r v else s.setReg r v)
    rw [← apply_ite (State.setReg · r v)]
    exact .start r v _
  | addReg dr sr1 sr2 =>
    refine ⟨_, _, exec_addReg s dr sr1 sr2, exec_addReg _ dr sr1 sr2, ?_⟩
    rw [hreg sr1 (.head _), hreg sr2 (.tail _ (.head _))]
    exact hstart.define dr _
  | addImm dr sr1 imm5 =>
    refine ⟨_, _, exec_addImm dr sr1 imm5 s, exec_addImm dr sr1 imm5 _, ?_⟩
    rw [hreg sr1 (.head _)]
    exact hstart.define dr _
  | ld dr off => exact ⟨_, _, exec_ld s dr off, exec_ld _ dr off, .loadFrom r v s dr _⟩
  | st sr off =>
    refine ⟨_, _, exec_st s sr off, exec_st _ sr off, ?_⟩
    rw [hreg sr (.head _)]
    exact hstart.map (g := fun t => t.memWrite (s.pc + sext off) (s.reg sr)) rfl
  | jsr off =>
    exact ⟨_, _, exec_jsr s off, exec_jsr _ off, hlink.map (g := fun t => t.setPc (s.pc + sext off)) rfl⟩
  | jsrr baseR =>
    refine ⟨_, _, exec_jsrr s baseR, exec_jsrr _ baseR, hlink.map (g := fun t => t.setPc (t.reg baseR)) ?_⟩
    rw [State.reg_setReg_of_ne _ v fun h : baseR = r => hr (h ▸ .head _)]
    rfl
  | andReg dr sr1 sr2 =>
    refine ⟨_, _, exec_andReg s dr sr1 sr2, exec_andReg _ dr sr1 sr2, ?_⟩
    rw [hreg sr1 (.head _), hreg sr2 (.tail _ (.head _))]
    exact hstart.define dr _
  | andImm dr sr1 imm5 =>
    refine ⟨_, _, exec_andImm dr sr1 imm5 s, exec_andImm dr sr1 imm5 _, ?_⟩
    rw [hreg sr1 (.head _)]
    exact hstart.define dr _
  | ldr dr baseR off =>
    refine ⟨_, _, exec_ldr s dr baseR off, exec_ldr _ dr baseR off, ?_⟩
    rw [hreg baseR (.head _)]
    exact .loadFrom r v s dr _
  | str sr baseR off =>
    refine ⟨_, _, exec_str s sr baseR off, exec_str _ sr baseR off, ?_⟩
    rw [hreg sr (.head _), hreg baseR (.tail _ (.head _))]
    exact hstart.map (g := fun t => t.memWrite (s.reg baseR + sext off) (s.reg sr)) rfl
  | rti => exact ⟨_, _, exec_rti s, exec_rti _, hstart.map (g := fun t => t.raise (.decodeFault 8#4)) rfl⟩
  | notReg dr sr =>
    refine ⟨_, _, exec_notReg s dr sr, exec_notReg _ dr sr, ?_⟩
    rw [hreg sr (.head _)]
    exact hstart.define dr _
  | ldi dr off =>
    refine ⟨_, _, exec_ldi s dr off, exec_ldi _ dr off, ?_⟩
    rw [State.setReg_pc, State.memRead_setReg]
    exact .loadFrom r v _ dr _
  | sti sr off =>
    refine ⟨_, _, exec_sti s sr off, exec_sti _ sr off, ?_⟩
    rw [State.setReg_pc, State.memRead_setReg, hreg sr (.head _)]
    exact (NotRead.start r v _).map (g := fun t => t.memWrite (s.memRead (s.pc + sext off)).1 (s.reg sr)) rfl
  | jmp baseR =>
    refine ⟨_, _, exec_jmp s baseR, exec_jmp _ baseR, ?_⟩
    rw [hreg baseR (.head _)]
    exact hstart.map (g := fun t => t.setPc (s.reg baseR)) rfl
  | res => exact ⟨_, _, exec_res s, exec_res _, hstart.map (g := fun t => t.raise (.decodeFault 13#4)) rfl⟩
  | lea dr off => exact ⟨_, _, exec_lea s dr off, exec_lea _ dr off, hstart.define dr _⟩
  | trapGetc => exact absurd rfl (hkey .getc rfl)
  | trapOut =>
    refine ⟨_, _, exec_trapOut s, exec_trapOut _, ?_⟩
    rw [hreg .r0 (.head _)]
    exact hlink.map (g := fun t => t.writeChar (lowByte (s.reg .r0))) rfl
  | trapPuts => exact notRead_of_walk s r v (h := .puts) rfl (by simpa [regsRead] using hr)
  | trapIn => exact absurd rfl (hkey .inChar rfl)
  | trapPutsp => exact notRead_of_walk s r v (h := .putsp) rfl (by simpa [regsRead] using hr)
  | trapHalt =>
    exact ⟨_, _, exec_trapHalt s, exec_trapHalt _,
      hlink.map (g := fun t => (t.writeChars Config.haltNotice).setRun .halted) rfl⟩
  | trap vec => exact ⟨_, _, exec_trap s vec, exec_trap _ vec, hlink.map (g := fun t => t.raise (.trapFault vec)) rfl⟩

theorem regsWritten_instr {h : Held} (hh : h.readsKey = true) : regsWritten h.instr = [.r7, .r0] := by
  cases h with
  | getc => rfl
  | inChar => rfl
  | _ => cases hh

/-- Settles O47: every operation but one that reads the register commutes with a write of it, or overwrites it; a GETC or IN
without a key has overwritten `R7` only. -/
theorem noOtherRegisterIsRead : Obligations.NoOtherRegisterIsRead := by
  intro i s r v hr
  by_cases hkey : ∀ h : Held, h.readsKey = true → i ≠ h.instr
  · obtain ⟨t, u, ht, hu, hkept, hlost⟩ := exec_notRead hr s v hkey
    exact ⟨t, u, ht, hu, hkept, fun hmem => .inl (hlost hmem)⟩
  · push Not at hkey
    obtain ⟨h, hh, rfl⟩ := hkey
    rw [regsWritten_instr hh]
    obtain ⟨t, u, ht, hu, ⟨hkept, hlost⟩ | ⟨hk, hkept, hlost⟩⟩ := notRead_of_readsKey s r v hh
    · exact ⟨t, u, ht, hu, hkept, fun hmem => .inl (hlost hmem)⟩
    · refine ⟨t, u, ht, hu, fun hmem => hkept fun h7 => hmem (List.mem_append_left [Reg.r0] h7), fun hmem => ?_⟩
      by_cases h7 : r ∈ [Reg.r7]
      · exact .inl (hlost h7)
      · have h0 : r = .r0 := by simpa [h7] using (List.mem_append (s := [Reg.r7]) (t := [Reg.r0])).mp hmem
        exact .inr ⟨instr_of_readsKey hh, hk, h0, h0 ▸ hkept h7⟩

end Sys2Proof.Machine

/-! TRAP and its routines (43_trap.md sections 1 and 2, 60_exceptions.md section 5): the entry, the key taken, the string
walked over, in the words of the statements, and the statements settled from them. -/

namespace Sys2Proof.Machine

/-! ## The entry -/

/-- The link is all there is to the entry; the output and the run state are free to change after it. -/
theorem State.entersTrapOnly_link (s : State) : EntersTrapOnly s s.link :=
  ⟨State.reg_link_r7 s, fun _ hx => State.reg_link_of_ne s hx, State.link_cond s, State.link_pc s,
    fun a => congrArg (Memory.read · a) (State.link_mem s), State.link_kbd s, State.link_arrivals s⟩

/-! ## A key -/

theorem toNat_zext8 (b : Byte) : (zext8 b).toNat = b.toNat := BitVec.toNat_setWidth_of_le (by decide)

section
variable {s t : State} {b : Byte} {rest : List Byte}

theorem State.takesKey_define (s : State) (b : Byte) (rest bs : List Byte) :
    TakesKey b rest s ((((s.setKbd rest).writeChars bs).define .r0 (zext8 b)).setHeld none) := by
  have hr0 : ((((s.setKbd rest).writeChars bs).define .r0 (zext8 b)).setHeld none).reg .r0 = zext8 b :=
    State.reg_define_self ((s.setKbd rest).writeChars bs) .r0 (zext8 b)
  refine ⟨by rw [hr0, toNat_zext8], ?_, rfl, fun r h0 _ => State.reg_define_of_ne _ _ h0, rfl, fun _ => rfl, rfl, rfl, rfl⟩
  rw [hr0]
  exact flagsShow_of_cond (State.define_cond _ _ _)

/-- The entry before the read changes `R7` and the output only. -/
theorem TakesKey.of_link {bs : List Byte} (h : TakesKey b rest (s.link.writeChars bs) t) : TakesKey b rest s t := by
  obtain ⟨hbyte, hflags, hkbd, hregs, hframe⟩ := h
  exact ⟨hbyte, hflags, hkbd, fun r h0 h7 => (hregs r h0 h7).trans (State.reg_link_of_ne s h7), hframe⟩

/-- GETC and IN with a key. -/
theorem exec_instr_key {h : Held} (hh : h.readsKey = true) (hk : s.kbd = b :: rest) :
    ∃ t, exec h.instr s = .next t ∧ TakesKey b rest s t ∧ t.reg .r7 = s.pc ∧ t.out = s.out ++ h.prompt ++ h.echo b ∧
      t.arrivals = s.arrivals := by
  refine ⟨_, (exec_instr s h).trans (resume_key hh hk), (State.takesKey_define _ b rest _).of_link, ?_, rfl, rfl⟩
  exact (State.reg_define_of_ne _ _ (by decide)).trans (State.reg_link_r7 s)

/-- GETC and IN without a key. -/
theorem exec_instr_empty {h : Held} (hh : h.readsKey = true) (hk : s.kbd = []) :
    ∃ t, exec h.instr s = .next t ∧ EntersTrapOnly s t ∧ t.out = s.out ++ h.prompt ∧ t.run = s.run ∧
      t.fault = s.fault ∧ t.held = some h :=
  ⟨_, (exec_instr s h).trans (resume_empty hh hk), s.entersTrapOnly_link, rfl, rfl, rfl, rfl⟩

end

/-! ## A string -/

section
variable {s : State} {h : Held} (hh : h.readsKey = false)
include hh

/-- Neither the entry nor a prompt, which is empty here, changes what the walk meets. -/
theorem exec_instr_walk : exec h.instr s =
    .next ((s.link.writeChars (h.bytes (s.walk memoryWords (s.reg .r0)).1)).setHeld
      (if (s.walk memoryWords (s.reg .r0)).2 then none else some h)) := by
  have hprompt : s.link.writeChars h.prompt = s.link := by
    cases h with
    | puts => exact s.link.writeChars_nil
    | putsp => exact s.link.writeChars_nil
    | _ => cases hh
  rw [exec_instr, hprompt, resume_walk _ hh, State.walk_congr (State.link_mem s), State.reg_link_of_ne s (by decide)]

theorem exec_instr_of_stringAt {ws : List Word} (hws : StringAt s (s.reg .r0) ws) :
    exec h.instr s = .next ((s.link.writeChars (h.bytes ws)).setHeld none) := by
  obtain ⟨hlen, hwords, hzero⟩ := hws
  have hwalk : s.walk memoryWords (s.reg .r0) = (ws, true) := s.walk_string ws _ hlen hwords hzero
  rw [exec_instr_walk hh, hwalk]
  rfl

theorem le_length_bytes (ws : List Word) : ws.length ≤ (h.bytes ws).length := by
  cases h with
  | puts => exact Nat.le_of_eq (List.length_map _).symm
  | putsp => exact putspBytes_length ws
  | _ => cases hh

/-- PUTS and PUTSP, with and without a zero word in memory. -/
theorem exec_instr_ends_or_holds : ∃ t, exec h.instr s = .next t ∧ EntersTrapOnly s t ∧ t.run = s.run ∧ t.fault = s.fault ∧
    (∃ w, t.out = s.out ++ w) ∧ ((∃ a : Word, s.mem.read a = 0x0000#16) → t.held = none) ∧
    ((∀ a : Word, s.mem.read a ≠ 0x0000#16) →
      t.held = some h ∧ ∃ ws : List Word, ws.length = 65536 ∧ t.out = s.out ++ h.bytes ws) := by
  refine ⟨_, exec_instr_walk hh, s.entersTrapOnly_link, rfl, rfl, ⟨_, rfl⟩, fun ⟨a, ha⟩ => ?_, fun hne => ?_⟩
  · exact if_pos (s.walk_round_ends _ a ha)
  · obtain ⟨hends, hlen⟩ := s.walk_endless hne memoryWords (s.reg .r0)
    exact ⟨if_neg (by simp [hends]), _, hlen, rfl⟩

end

theorem lowByte_eq (w : Word) : lowByte w = w.setWidth 8 := by
  ext i hi
  simp [lowByte]

theorem putsBytes_eq (ws : List Word) : putsBytes ws = ws.map (fun w : Word => w.setWidth 8) :=
  List.map_congr_left fun w _ => lowByte_eq w

theorem highByte_eq (w : Word) : highByte w = (w >>> 8).setWidth 8 := by
  ext i hi
  simp [highByte]

theorem highByte_eq_zero_iff (w : Word) : highByte w = 0x00#8 ↔ w.toNat < 256 := by
  have hw := w.isLt
  rw [← BitVec.toNat_inj, highByte, BitVec.extractLsb'_toNat, Nat.shiftRight_eq_div_pow]
  simp only [BitVec.toNat_ofNat]
  omega

theorem putspBytes_eq (ws : List Word) : putspBytes ws =
    ws.flatMap (fun w : Word => w.setWidth 8 :: (if w.toNat < 256 then [] else [(w >>> 8).setWidth 8])) := by
  refine List.flatMap_congr fun w _ => ?_
  rw [← highByte_eq, ← lowByte_eq]
  by_cases hw : w.toNat < 256
  · rw [if_pos hw, if_pos ((highByte_eq_zero_iff w).mpr hw)]
  · rw [if_neg hw, if_neg (hw ∘ (highByte_eq_zero_iff w).mp)]

/-! ## The statements -/

/-- Settles O34: the walk meets exactly the string, and PUTS writes the low byte of each word. -/
theorem putsWritesTheLowByteOfEachWordOfTheString : Obligations.PutsWritesTheLowByteOfEachWordOfTheString := by
  intro x s
  refine ⟨decode_trap_word x 0x22#8, fun ws hws => ?_⟩
  exact ⟨_, exec_instr_of_stringAt (h := .puts) rfl hws, s.entersTrapOnly_link,
    congrArg (s.out ++ ·) (putsBytes_eq ws), rfl, rfl, rfl⟩

/-- Settles O36: the walk meets exactly the string, and a high byte is zero exactly for a word below 256. -/
theorem putspWritesTheLowThenTheNonzeroHighByte : Obligations.PutspWritesTheLowThenTheNonzeroHighByte := by
  intro x s
  refine ⟨decode_trap_word x 0x24#8, fun ws hws => ?_⟩
  exact ⟨_, exec_instr_of_stringAt (h := .putsp) rfl hws, s.entersTrapOnly_link,
    congrArg (s.out ++ ·) (putspBytes_eq ws), rfl, rfl, rfl⟩

/-- Settles O39: a round of memory from any address meets every cell. -/
theorem stringRoutinesEndExactlyWhenMemoryHoldsAZeroWord :
    Obligations.StringRoutinesEndExactlyWhenMemoryHoldsAZeroWord := by
  intro s
  refine ⟨?puts, ?putsp⟩
  case puts =>
    obtain ⟨t, ht, henters, hrun, hfault, hout, hends, hendless⟩ := exec_instr_ends_or_holds (s := s) (h := .puts) rfl
    refine ⟨t, ht, henters, hrun, hfault, hout, hends, fun hne => ?_⟩
    obtain ⟨hheld, ws, hlen, hws⟩ := hendless hne
    exact ⟨hheld, by rw [hws, List.length_append, Held.bytes, putsBytes, List.length_map, hlen]⟩
  case putsp =>
    obtain ⟨t, ht, henters, hrun, hfault, hout, hends, hendless⟩ := exec_instr_ends_or_holds (s := s) (h := .putsp) rfl
    refine ⟨t, ht, henters, hrun, hfault, hout, hends, fun hne => ?_⟩
    obtain ⟨hheld, ws, hlen, hws⟩ := hendless hne
    exact ⟨hheld, by rw [hws, List.length_append, ← hlen]; exact Nat.add_le_add_left (putspBytes_length ws) _⟩

/-- Settles O40: the held routine walks one more round, over the memory the arrivals leave as it is. -/
theorem heldStringRoutinesWriteForEver : Obligations.HeldStringRoutinesWriteForEver := by
  intro s hrun hheld hne
  obtain ⟨h, hsh, hh⟩ : ∃ h, s.held = some h ∧ h.readsKey = false := by
    rcases hheld with hsh | hsh
    · exact ⟨.puts, hsh, rfl⟩
    · exact ⟨.putsp, hsh, rfl⟩
  obtain ⟨hends, hlen⟩ := s.arrive.walk_endless hne memoryWords (s.reg .r0)
  refine ⟨_, (step_held hrun hsh).trans (resume_walk _ hh), ?_, hrun, rfl, fun _ => rfl, rfl, rfl, rfl, rfl, rfl, _, ?_, rfl⟩
  · exact (if_neg (by simp [hends])).trans hsh.symm
  · exact Nat.le_trans (Nat.le_of_eq hlen.symm) (le_length_bytes hh _)

/-- Settles O32: GETC has no prompt and no echo. -/
theorem getcTakesAKeyOrIsHeld : Obligations.GetcTakesAKeyOrIsHeld := by
  intro x s
  refine ⟨decode_trap_word x 0x20#8, fun b rest hk => ?key, fun hk => ?empty⟩
  case key =>
    obtain ⟨t, ht, htakes, h7, hout, harr⟩ := exec_instr_key (h := .getc) rfl hk
    exact ⟨t, ht, htakes, h7, by simpa [Held.prompt, Held.echo] using hout, harr⟩
  case empty =>
    obtain ⟨t, ht, henters, hout, hframe⟩ := exec_instr_empty (h := .getc) rfl hk
    exact ⟨t, ht, henters, by simpa [Held.prompt] using hout, hframe⟩

/-- Settles O33: the entry, then one byte. -/
theorem outWritesTheLowByteOfR0 : Obligations.OutWritesTheLowByteOfR0 := by
  intro x s
  exact ⟨decode_trap_word x 0x21#8, _, exec_trapOut s, s.entersTrapOnly_link,
    congrArg (s.out ++ [·]) (lowByte_eq _), rfl, rfl, rfl⟩

/-- Settles O35: IN is the entry, the prompt, and the read with its echo. -/
theorem inPromptsTakesAKeyAndEchoesItOrIsHeld : Obligations.InPromptsTakesAKeyAndEchoesItOrIsHeld := by
  intro x s
  exact ⟨decode_trap_word x 0x23#8, fun _ _ hk => exec_instr_key (h := .inChar) rfl hk,
    fun hk => exec_instr_empty (h := .inChar) rfl hk⟩

/-- Settles O37: the entry, the notice, and the run state. -/
theorem haltWritesTheNoticeAndHalts : Obligations.HaltWritesTheNoticeAndHalts := by
  intro x s
  exact ⟨decode_trap_word x 0x25#8, _, exec_trapHalt s, s.entersTrapOnly_link, rfl, rfl, rfl, rfl⟩

/-- Settles O38: an unserved vector falls through to the fallback, which raises after the entry. -/
theorem unservedTrapVectorsRaiseTrapFault : Obligations.UnservedTrapVectorsRaiseTrapFault := by
  intro x v s hv
  have hdecode : decodeTrap v = .trap v := decodeTrap_unserved v (servedVector_eq_false_iff.mpr hv)
  exact ⟨(decode_trap_word x v).trans hdecode, _, exec_trap s v, s.entersTrapOnly_link, rfl, rfl, rfl, rfl⟩

/-- Settles O41: the held routine goes on in the state in which the bytes have arrived. -/
theorem heldGetcAndInWaitForAByteAndThenComplete : Obligations.HeldGetcAndInWaitForAByteAndThenComplete := by
  intro s hrun hheld
  obtain ⟨h, hsh, hh⟩ : ∃ h, s.held = some h ∧ h.readsKey = true := by
    rcases hheld with hsh | hsh
    · exact ⟨.getc, hsh, rfl⟩
    · exact ⟨.inChar, hsh, rfl⟩
  refine ⟨fun hk => ?waits, fun b rest hk => ?completes⟩
  case waits =>
    rw [step_held hrun hsh, resume_empty hh hk, ← hsh]
    rfl
  case completes =>
    refine ⟨_, (step_held hrun hsh).trans (resume_key hh hk), s.arrive.takesKey_define b rest _,
      State.reg_define_of_ne ((s.arrive.setKbd rest).writeChars _) (r := .r0) (x := .r7) _ (by decide), rfl,
      fun hg => ?_, fun hi => ?_⟩
    · cases hsh.symm.trans hg
      exact List.append_nil _
    · cases hsh.symm.trans hi
      rfl

end Sys2Proof.Machine

/-! The register forms of ADD and AND, NOT (40_operate.md sections 1 to 3), BR, JMP, JSRR, RTI and RES (42_control.md
sections 1 to 4): the statements about one instruction each, from its words and its answer. -/

namespace Sys2Proof.Machine

/-! ## Operate instructions -/

/-- Settles O15: the selectors of the word lead to the register form of ADD, which defines `dr` with the sum. -/
theorem addRegisterFormAddsModulo65536 : Obligations.AddRegisterFormAddsModulo65536 := by
  intro dr sr1 sr2 x s
  exact ⟨decode_addReg_word dr sr1 x sr2, _, exec_addReg s _ _ _, s.definesOnly_define _ _⟩

/-- Settles O17: the selectors of the word lead to the register form of AND, which defines `dr` with the bitwise and. -/
theorem andRegisterFormAndsAllSixteenBits : Obligations.AndRegisterFormAndsAllSixteenBits := by
  intro dr sr1 sr2 x s
  exact ⟨decode_andReg_word dr sr1 x sr2, _, exec_andReg s _ _ _, s.definesOnly_define _ _⟩

/-- The complement is the difference from the word of all ones. -/
theorem FFFF_sub_eq_not (w : Word) : 0xFFFF#16 - w = ~~~w := BitVec.allOnes_sub_eq_not w

/-- Settles O19: NOT defines `dr` with the complement. -/
theorem notComplementsTheSource : Obligations.NotComplementsTheSource := by
  intro dr sr x s
  rw [FFFF_sub_eq_not]
  exact ⟨decode_notReg_word dr sr x, _, exec_notReg s _ _, s.definesOnly_define _ _⟩

/-! ## Control instructions -/

theorem State.jumpsOnly_setPc (s : State) (v : Word) : JumpsOnly v s (s.setPc v) :=
  ⟨rfl, fun _ => rfl, rfl, fun _ => rfl, ⟨rfl, rfl, rfl⟩, ⟨rfl, rfl, rfl⟩⟩

/-- Each flag is one bit, so the test of BR picks the bit of the flag `COND` names. -/
theorem and_ne_zero_iff_of_condLegal {c : Word} (hc : CondLegal c) (n z p : BitVec 1) :
    c &&& (n ++ z ++ p).setWidth 16 ≠ 0x0000#16 ↔
      (n = 1#1 ∧ c = flNeg) ∨ (z = 1#1 ∧ c = flZro) ∨ (p = 1#1 ∧ c = flPos) := by
  rcases hc with rfl | rfl | rfl
  · revert n z p; decide
  · revert n z p; decide
  · revert n z p; decide

theorem State.condMet_iff (s : State) (cond : BitVec 3) :
    s.condMet cond = true ↔ s.cond &&& cond.setWidth 16 ≠ 0x0000#16 := decide_eq_true_iff

/-- Settles O27: the answer of BR splits on the test. -/
theorem brBranchesExactlyWhenAConditionBitIsMet : Obligations.BrBranchesExactlyWhenAConditionBitIsMet := by
  intro n z p off s
  refine ⟨decode_br_word _ off, _, exec_br s _ off, fun hmet => ?taken, fun hnot => ?notTaken,
    fun hc => and_ne_zero_iff_of_condLegal hc n z p⟩
  case taken =>
    rw [if_pos ((s.condMet_iff _).mpr hmet)]
    exact s.jumpsOnly_setPc _
  case notTaken =>
    exact if_neg fun hmet => (s.condMet_iff _).mp hmet hnot

/-- Settles O28: the word decodes to JMP, a jump to the base register. -/
theorem jmpJumpsToTheBaseRegister : Obligations.JmpJumpsToTheBaseRegister := by
  intro x baseR y s
  exact ⟨decode_jmp_word x baseR y, _, exec_jmp s _, s.jumpsOnly_setPc _⟩

/-- Settles O30: the target is read after the link, which has changed it only for `R7`. -/
theorem jsrrLinksBeforeItReadsTheBaseRegister : Obligations.JsrrLinksBeforeItReadsTheBaseRegister := by
  intro x baseR y s
  refine ⟨decode_jsrr_word x baseR y, _, exec_jsrr s _, fun hne => ?other, fun h7 => ?r7⟩
  case other =>
    rw [State.reg_link_of_ne s hne]
    exact s.callsOnly_setPc_link _
  case r7 =>
    rw [h7, State.reg_link_r7]
    exact s.callsOnly_setPc_link _

/-- Settles O31: the two opcodes decode whatever their other bits, and their answer is the raise. -/
theorem rtiAndResRaiseDecodeFault : Obligations.RtiAndResRaiseDecodeFault := by
  intro x s
  have hframe (k : FaultKind) : SameRegs s (s.raise k) ∧ (s.raise k).pc = s.pc ∧ (s.raise k).cond = s.cond ∧
      SameMemory s (s.raise k) ∧ SameTerminal s (s.raise k) ∧ (s.raise k).held = s.held :=
    ⟨fun _ => rfl, rfl, rfl, fun _ => rfl, ⟨rfl, rfl, rfl⟩, rfl⟩
  exact ⟨decode_rti_word x, decode_res_word x, ⟨_, exec_rti s, rfl, rfl, hframe _⟩, ⟨_, exec_res s, rfl, rfl, hframe _⟩⟩

end Sys2Proof.Machine

/-! The step (30_encoding.md section 2, 10_state.md section 6), the intercepted read (20_memory.md section 3), instruction
fetch coherence (20_memory.md section 5), reset (70_reset_and_hazards.md section 1) and the keyboard port (60_exceptions.md
section 5): the statements, from the laws of the step, of `MemRead` and of the arrivals. -/

namespace Sys2Proof.Machine

/-! ## Reset -/

/-- Settles O1: reset writes out every field. -/
theorem resetGivesEveryPieceOfStateItsValue : Obligations.ResetGivesEveryPieceOfStateItsValue := by
  refine ⟨fun image entry kbd arrivals => ?_, rfl, Memory.read_nil⟩
  exact ⟨State.reg_resetWith image entry kbd arrivals, rfl, rfl, fun _ => rfl, rfl, rfl, rfl, rfl, rfl, rfl⟩

/-! ## The step -/

/-- Away from `KBSR` the fetch reads the cell at `PC` and changes `PC` alone. -/
theorem State.fetch_of_ne (s : State) (hpc : s.pc ≠ kbsr) : s.fetch = (s.mem.read s.pc, s.setPc (s.pc + 1)) := by
  rw [State.fetch, State.memRead_of_ne s hpc]

theorem step_fetch_of_ne {s : State} (hrun : s.run = .running) (hheld : s.held = none) (hpc : s.pc ≠ kbsr) :
    step s = exec (decode (s.mem.read s.pc)) (s.arrive.setPc (s.pc + 1)) := by
  rw [step_fetch hrun hheld, State.fetch_of_ne s.arrive hpc]
  rfl

/-- Settles O12: a step in RUNNING with nothing held is the fetch after the arrivals and the instruction. -/
theorem stepFetchesIncrementsAndRunsTheDecodedInstruction :
    Obligations.StepFetchesIncrementsAndRunsTheDecodedInstruction := by
  intro s hrun hheld
  refine ⟨step_fetch hrun hheld, step_fetch_of_ne hrun hheld, ?_⟩
  exact ⟨State.arrive_kbd s, State.arrive_arrivals s, State.reg_arrive s, State.arrive_pc s, State.arrive_cond s,
    State.arrive_mem s, State.arrive_out s, State.arrive_run s, State.arrive_fault s, State.arrive_held s⟩

/-- Settles O13: a step looks at the run state first. -/
theorem haltedAndFaultedAreFrozen : Obligations.HaltedAndFaultedAreFrozen := fun _ => step_stopped

/-- Settles O53: the ST of the first step leaves RUNNING and the word in the next cell, which the second step fetches
plainly. -/
theorem aStoredWordIsTheNextInstructionFetched : Obligations.AStoredWordIsTheNextInstructionFetched := by
  intro s sr hrun hheld hpc hpc' hdecode
  have hea : s.pc + 1 + sext 0#9 = s.pc + 1 := by simp [sext]
  let t := (s.arrive.setPc (s.pc + 1)).memWrite (s.pc + 1) (s.reg sr)
  have hstep : step s = .next t := by
    rw [step_fetch_of_ne hrun hheld hpc, hdecode, exec_st, State.setPc_pc, hea]
    rfl
  have hcell : t.mem.read (s.pc + 1) = s.reg sr := State.read_memWrite_self _ _ _
  refine ⟨t, hstep, rfl, hcell, ?_⟩
  rw [step_fetch_of_ne (s := t) hrun hheld hpc', show t.pc = s.pc + 1 from rfl, hcell]

/-! ## The intercepted read -/

section
variable {s : State}

theorem State.read_poll_of_nil (hk : s.kbd = []) (a : Word) :
    s.poll.mem.read a = if a = kbsr then 0x0000#16 else s.mem.read a := by
  rw [State.poll_nil hk, State.memWrite_mem, Memory.read_write]

theorem State.read_poll_kbsr_of_cons {b : Byte} {rest : List Byte} (hk : s.kbd = b :: rest) :
    s.poll.mem.read kbsr = kbsrReady := by
  rw [State.poll_cons hk, State.memWrite_mem, Memory.read_write_of_ne _ _ (by decide), State.read_memWrite_self]

theorem State.read_poll_kbdr_of_cons {b : Byte} {rest : List Byte} (hk : s.kbd = b :: rest) :
    s.poll.mem.read kbdr = zext8 b := by
  rw [State.poll_cons hk, State.read_memWrite_self]

end

/-- Settles O5: at `KBSR` the read is a poll and then the cell; the poll writes the device cells in order, `KBDR` last. -/
theorem memReadPollsTheKeyboardAtKbsrOnly : Obligations.MemReadPollsTheKeyboardAtKbsrOnly := by
  intro s
  refine ⟨fun a ha => State.memRead_of_ne s ha, fun hk => ?empty, fun b rest hk => ?key,
    s.sameRegs_memRead kbsr, State.memRead_pc s _, State.memRead_cond s _, State.memRead_out s _,
    State.memRead_arrivals s _, s.sameRunState_memRead kbsr⟩
  case empty =>
    have hkbsr : s.poll.mem.read kbsr = 0x0000#16 := by rw [State.read_poll_of_nil hk, if_pos rfl]
    exact ⟨hkbsr, hkbsr, fun a ha => (State.read_poll_of_nil hk a).trans (if_neg ha),
      (State.poll_kbd s).trans (by rw [hk]; rfl)⟩
  case key =>
    have hkbsr := State.read_poll_kbsr_of_cons hk
    exact ⟨hkbsr, hkbsr, (congrArg BitVec.toNat (State.read_poll_kbdr_of_cons hk)).trans (toNat_zext8 b),
      fun a => s.read_poll_of_ne,
      (State.poll_kbd s).trans (by rw [hk]; rfl)⟩

/-! ## The keyboard port -/

theorem Arrivals.skip_silent (k : Nat) : (Arrivals.skip ⟨[], .silent⟩ k) = ⟨[], .silent⟩ := by
  induction k with
  | zero => rfl
  | succ k ih => exact ih

theorem Arrivals.skip_free (stream tick k : Nat) :
    Arrivals.skip ⟨[], .free stream tick⟩ k = ⟨[], .free stream (tick + k)⟩ := by
  induction k generalizing tick with
  | zero => rfl
  | succ k ih => exact (ih (tick + 1)).trans (by rw [Nat.add_right_comm, Nat.add_assoc])

/-- Past the list only the source is left, from the step at which it began. -/
theorem Arrivals.skip_of_length_le (listed : List (List Byte)) (src : Source) {k : Nat} (hk : listed.length ≤ k) :
    Arrivals.skip ⟨listed, src⟩ k = Arrivals.skip ⟨[], src⟩ (k - listed.length) := by
  induction listed generalizing k with
  | nil => rfl
  | cons bs rest ih =>
    obtain ⟨k, rfl⟩ := Nat.exists_eq_succ_of_ne_zero (Nat.ne_of_gt (Nat.lt_of_lt_of_le (Nat.succ_pos _) hk))
    rw [List.length_cons, Nat.succ_sub_succ]
    exact ih (Nat.le_of_succ_le_succ hk)

theorem Arrivals.next_skip_of_getElem? (listed : List (List Byte)) (src : Source) {k : Nat} {bs : List Byte}
    (hk : listed[k]? = some bs) : (Arrivals.skip ⟨listed, src⟩ k).next = bs := by
  induction listed generalizing k with
  | nil => simp at hk
  | cons bs' rest ih =>
    cases k with
    | zero => exact Option.some.inj hk
    | succ k => exact ih hk

theorem State.readChar_eq_none_iff (s : State) : s.readChar = none ↔ s.kbd = [] := by
  refine ⟨fun h => ?_, State.readChar_nil⟩
  cases hk : s.kbd with
  | nil => rfl
  | cons b rest => simp [State.readChar_cons hk] at h

/-- Settles O55: the queue is the list itself, and the arrivals of a later step are those of its place in the list or of the
source. -/
theorem theKeyboardIsAnUnconstrainedFifoQueue : Obligations.TheKeyboardIsAnUnconstrainedFifoQueue := by
  refine ⟨fun s => by simp [State.keyAvail], State.readChar_eq_none_iff, fun _ _ _ => State.readChar_cons,
    fun s => ⟨State.arrive_kbd s, State.arrive_arrivals s⟩,
    fun listed src _ _ => Arrivals.next_skip_of_getElem? listed src, fun listed k hk => ?silent,
    fun listed stream tick k hk => ?free⟩
  case silent => rw [Arrivals.skip_of_length_le listed _ hk, Arrivals.skip_silent, Arrivals.next_silent]
  case free => rw [Arrivals.skip_of_length_le listed _ hk, Arrivals.skip_free, Arrivals.next_free]

end Sys2Proof.Machine

/-! The list that holds the array `M` (10_state.md section 5) and the image format (20_memory.md section 6): canonical
memories are determined by what they read, the loader writes a block, and the two statements settled from it. -/

namespace Sys2Proof.Machine

/-! ## What a list of cells reads -/

theorem Memory.read_cons (c : Nat × Word) (m : Memory) (a : Word) :
    Memory.read (c :: m) a = if c.1 = a.toNat then c.2 else Memory.read m a := rfl

/-- A cell that reads as a listed value is listed. -/
theorem Memory.exists_mem_of_read_ne {m : Memory} {a : Word} (h : m.read a ≠ Memory.unlisted) :
    ∃ e ∈ m, e.1 = a.toNat := by
  induction m with
  | nil => exact absurd rfl h
  | cons c m ih =>
    by_cases hc : c.1 = a.toNat
    · exact ⟨c, .head _, hc⟩
    · rw [Memory.read_cons, if_neg hc] at h
      obtain ⟨e, he, hea⟩ := ih h
      exact ⟨e, .tail _ he, hea⟩

section
variable {c d : Nat × Word} {m n : Memory}

theorem Memory.read_head (hc : c.1 < 65536) : Memory.read (c :: m) (BitVec.ofNat 16 c.1) = c.2 := by
  rw [Memory.read_cons, if_pos (by rw [BitVec.toNat_ofNat, Nat.mod_eq_of_lt hc])]

theorem Memory.key_le_of_mem (hn : Memory.wf (d :: n) = true) {e : Nat × Word} (he : e ∈ d :: n) : d.1 ≤ e.1 := by
  obtain ⟨-, -, hall, -⟩ := (Memory.wf_cons d n).mp hn
  rcases List.mem_cons.mp he with rfl | he
  · exact Nat.le_refl _
  · exact Nat.le_of_lt (hall e he)

/-- A memory that reads like a canonical one lists its first cell. -/
theorem Memory.exists_mem_of_read_alike (hm : Memory.wf (c :: m) = true)
    (h : ∀ a : Word, Memory.read (c :: m) a = Memory.read n a) : ∃ e ∈ n, e.1 = c.1 := by
  obtain ⟨hlt, hv, -, -⟩ := (Memory.wf_cons c m).mp hm
  have hread : Memory.read n (BitVec.ofNat 16 c.1) = c.2 := (h _).symm.trans (Memory.read_head hlt)
  obtain ⟨e, he, hec⟩ := Memory.exists_mem_of_read_ne (hread ▸ hv)
  exact ⟨e, he, by rw [hec, BitVec.toNat_ofNat, Nat.mod_eq_of_lt hlt]⟩

/-- In canonical form no later cell has the address of the first. -/
theorem Memory.read_tail_of_eq (hm : Memory.wf (c :: m) = true) {a : Word} (ha : c.1 = a.toNat) :
    Memory.read m a = Memory.unlisted := by
  obtain ⟨-, -, hall, -⟩ := (Memory.wf_cons c m).mp hm
  by_contra hne
  obtain ⟨e, he, hea⟩ := Memory.exists_mem_of_read_ne hne
  exact absurd (hall e he) (by omega)

theorem Memory.read_tail_alike (hm : Memory.wf (c :: m) = true) (hn : Memory.wf (d :: n) = true) (hcd : c.1 = d.1)
    (h : ∀ a : Word, Memory.read (c :: m) a = Memory.read (d :: n) a) (a : Word) :
    Memory.read m a = Memory.read n a := by
  by_cases ha : c.1 = a.toNat
  · rw [Memory.read_tail_of_eq hm ha, Memory.read_tail_of_eq hn (hcd ▸ ha)]
  · have ha' := h a
    rwa [Memory.read_cons, Memory.read_cons, if_neg ha, if_neg (hcd ▸ ha)] at ha'

end

/-- Settles O6: by induction on one list; each lists the first cell of the other, so the first addresses agree, and with
them the first values and the rest. -/
theorem canonicalMemoriesThatReadAlikeAreEqual : Obligations.CanonicalMemoriesThatReadAlikeAreEqual := by
  intro m
  induction m with
  | nil =>
    intro n _ hn h
    cases n with
    | nil => rfl
    | cons d n =>
      obtain ⟨e, he, -⟩ := Memory.exists_mem_of_read_alike hn fun a => (h a).symm
      cases he
  | cons c m ih =>
    intro n hm hn h
    obtain ⟨e, he, hec⟩ := Memory.exists_mem_of_read_alike hm h
    cases n with
    | nil => cases he
    | cons d n =>
      obtain ⟨e', he', hed⟩ := Memory.exists_mem_of_read_alike hn fun a => (h a).symm
      have hkey : c.1 = d.1 :=
        Nat.le_antisymm (hed ▸ Memory.key_le_of_mem hm he') (hec ▸ Memory.key_le_of_mem hn he)
      obtain ⟨hclt, -, -, hwfm⟩ := (Memory.wf_cons c m).mp hm
      obtain ⟨hdlt, -, -, hwfn⟩ := (Memory.wf_cons d n).mp hn
      have hvalue : c.2 = d.2 := by
        rw [← Memory.read_head (m := m) hclt, h, hkey, Memory.read_head hdlt]
      rw [Prod.ext hkey hvalue, ih n hwfm hwfn (Memory.read_tail_alike hm hn hkey h)]

/-! ## The loader -/

theorem Memory.load_cons_of_lt (m : Memory) {origin : Nat} (w : Word) (ws : List Word) (ho : origin < 65536) :
    m.load origin (w :: ws) = (m.write (BitVec.ofNat 16 origin) w).load (origin + 1) ws := if_pos ho

theorem Memory.load_cons_of_ge (m : Memory) {origin : Nat} (w : Word) (ws : List Word) (ho : ¬ origin < 65536) :
    m.load origin (w :: ws) = m := if_neg ho

theorem Memory.read_load_of_outside (m : Memory) (origin : Nat) (ws : List Word) {a : Word}
    (ha : a.toNat < origin ∨ origin + ws.length ≤ a.toNat) : (m.load origin ws).read a = m.read a := by
  induction ws generalizing m origin with
  | nil => rfl
  | cons w ws ih =>
    by_cases ho : origin < 65536
    · rw [List.length_cons] at ha
      have hne : a ≠ BitVec.ofNat 16 origin := fun h => by
        have : a.toNat = origin := by rw [h, BitVec.toNat_ofNat, Nat.mod_eq_of_lt ho]
        omega
      rw [Memory.load_cons_of_lt m w ws ho, ih _ _ (by omega), Memory.read_write_of_ne m w hne]
    · rw [Memory.load_cons_of_ge m w ws ho]

theorem Memory.read_load (m : Memory) (origin : Nat) (ws : List Word) {k : Nat} {w : Word} (hk : ws[k]? = some w)
    (hfits : origin + k < 65536) : (m.load origin ws).read (BitVec.ofNat 16 (origin + k)) = w := by
  induction ws generalizing m origin k with
  | nil => cases hk
  | cons v ws ih =>
    have ho : origin < 65536 := by omega
    rw [Memory.load_cons_of_lt m v ws ho]
    cases k with
    | zero =>
      obtain rfl : v = w := Option.some.inj hk
      have hbefore : (BitVec.ofNat 16 origin).toNat < origin + 1 := by
        rw [BitVec.toNat_ofNat, Nat.mod_eq_of_lt ho]
        exact Nat.lt_succ_self origin
      exact (Memory.read_load_of_outside _ _ _ (.inl hbefore)).trans (Memory.read_write_self m _ v)
    | succ k =>
      have hrest := ih (m.write (BitVec.ofNat 16 origin) v) (origin + 1) hk (by omega)
      rwa [Nat.add_right_comm, Nat.add_assoc] at hrest

theorem Memory.wf_load {m : Memory} (origin : Nat) (ws : List Word) (h : m.wf = true) : (m.load origin ws).wf = true := by
  induction ws generalizing m origin with
  | nil => exact h
  | cons w ws ih =>
    by_cases ho : origin < 65536
    · rw [Memory.load_cons_of_lt m w ws ho]
      exact ih _ (Memory.wf_write _ w h)
    · rw [Memory.load_cons_of_ge m w ws ho]
      exact h

/-- Settles O54: by induction on the words; later words go to higher addresses. -/
theorem loadedWordsStandFromTheOrigin : Obligations.LoadedWordsStandFromTheOrigin :=
  fun m origin ws => ⟨fun _ _ => m.read_load origin ws, fun _ => m.read_load_of_outside origin ws,
    m.wf_load origin ws⟩

end Sys2Proof.Machine
